-- ==== Sys2Proof/Word.lean ====
section
/-! DEFINITION. The word types of the core (R5), the 13 addressing-mode identifiers (R95), the 56 documented mnemonics
(R97) and the operand shapes an instruction can carry (R92, R120). Shapes and names only: no computation stands here. -/

namespace Sys2Proof

/-- R5: a data byte or an 8-bit register. -/
abbrev Byte := BitVec 8

/-- R5: a 16-bit address, the program counter, or the 16-bit scratch register. -/
abbrev Addr := BitVec 16

/-- R95: the 13 addressing-mode identifiers. -/
inductive Mode where
  | imp | acc | imm | zp | zpx | zpy | rel | abs | absx | absy | ind | indx | indy
  deriving DecidableEq, Repr

/-- R97: the 56 documented mnemonics. -/
inductive Mnemonic where
  | adc | and | asl | bcc | bcs | beq | bit | bmi | bne | bpl | brk | bvc | bvs | clc
  | cld | cli | clv | cmp | cpx | cpy | dec | dex | dey | eor | inc | inx | iny | jmp
  | jsr | lda | ldx | ldy | lsr | nop | ora | pha | php | pla | plp | rol | ror | rti
  | rts | sbc | sec | sed | sei | sta | stx | sty | tax | tay | tsx | txa | txs | tya
  deriving DecidableEq, Repr

/-- The modes that resolve to an effective address in memory (R124 to R126, R128 to R130, R132, R133),
each with its operand bytes as R92 assembles them. -/
inductive MemMode where
  | zp (b : Byte)
  | zpx (b : Byte)
  | zpy (b : Byte)
  | abs (w : Addr)
  | absx (w : Addr)
  | absy (w : Addr)
  | indx (b : Byte)
  | indy (b : Byte)
  deriving DecidableEq, Repr

/-- R120, read class: an immediate byte (R123) or a byte in memory. -/
inductive ReadOperand where
  | imm (b : Byte)
  | mem (m : MemMode)
  deriving DecidableEq, Repr

/-- R120, RMW class and the ACC form (R122) of the four shifts and rotates. -/
inductive RmwOperand where
  | acc
  | mem (m : MemMode)
  deriving DecidableEq, Repr

/-- R249: the two forms of JMP. -/
inductive JumpOperand where
  | abs (w : Addr)
  | ind (w : Addr)
  deriving DecidableEq, Repr

end Sys2Proof
end

