-- ==== Sys2Proof/Config.lean ====
section
/-! DEFINITION. The parameters of R6, each at the default the spec gives it, and the free values: what the spec leaves
open is an opaque constant with no body, so that a claim holds for every value. The functions that read a parameter take it
as an argument, so the other value of the parameter is defined as well. -/

namespace Sys2Proof.Config

/-- R99: the type of ADMITTED_SET. -/
inductive AdmittedSet where
  | documented151
  | sourceNamed
  deriving DecidableEq, Repr

/-- R6, D1: ADMITTED_SET. -/
def admittedSet : AdmittedSet := .documented151

/-- R6, D5: RAM_MASK, the mask of the RAM mirror (the other value of the parameter is 0x08FF). -/
def ramMask : Addr := 0x07FF#16

/-- R6, D14: ZP_WRAP. -/
def zpWrap : Bool := true

/-- R6, D15: JMP_IND_PAGE_BUG. -/
def jmpIndPageBug : Bool := true

/-- R6, D18: PAGE_CROSS_PENALTY (timing only, R338). -/
def pageCrossPenalty : Bool := false

/-- R7: the load origin; it is no parameter. -/
def loadOrigin : Addr := 0x8000#16

/-- R6, D8: the type of RESET_REGS: the registers A, X, Y and SP, and P as the byte of R40's layout. -/
structure ResetRegs where
  a : Byte
  x : Byte
  y : Byte
  sp : Byte
  p : Byte
  deriving DecidableEq, Repr

/-- R47, D8: the default of RESET_REGS. -/
def resetRegs : ResetRegs := { a := 0x00#8, x := 0x00#8, y := 0x00#8, sp := 0xFD#8, p := 0x24#8 }

/-- R6, D9: the type of RESET_PC_SOURCE. -/
inductive PcSource where
  | fixed (a : Addr)
  | vector
  deriving DecidableEq, Repr

/-- R47, D9: the default of RESET_PC_SOURCE. -/
def resetPcSource : PcSource := .fixed 0x8000#16

end Sys2Proof.Config

/-- R69, D7: INIT_MEM, the byte a storage index holds before anything is loaded or stored there. A draw: it has no body,
so nothing can be proved of its value and no zero is assumed. Log entry 1. -/
opaque Sys2Proof.Config.initMem : Nat → Sys2Proof.Byte

/-- R334, D17: what the scratch register holds after an engine step. A draw: no rule reads it and the spec gives it no
value; the argument is the count of draws made so far (State.draws). Log entry 3. -/
opaque Sys2Proof.Config.scratchDraw : Nat → Sys2Proof.Addr
end

