-- ==== Sys2Proof/Syntax.lean ====
section
/-! DEFINITION. The instructions: one constructor per mnemonic of the opcode table (30_encoding.md R97), its argument being
the operand form; a row of the table is a constructor at the form of the row's addressing mode. The 105 rows of the mnemonic
UNDOCUMENTED (R104) are the constructor undocumented at their opcode byte. -/

namespace Sys2Proof

inductive Instr where
  -- 41_arithmetic.md
  | adc (m : ReadOperand)
  | sbc (m : ReadOperand)
  | cmp (m : ReadOperand)
  | cpx (m : ReadOperand)
  | cpy (m : ReadOperand)
  | inc (m : MemMode)
  | dec (m : MemMode)
  | inx
  | iny
  | dex
  | dey
  -- 42_logic.md
  | and (m : ReadOperand)
  | ora (m : ReadOperand)
  | eor (m : ReadOperand)
  | bit (m : MemMode)
  -- 43_shift_rotate.md
  | asl (m : RmwOperand)
  | lsr (m : RmwOperand)
  | rol (m : RmwOperand)
  | ror (m : RmwOperand)
  -- 44_load_store_transfer.md
  | lda (m : ReadOperand)
  | ldx (m : ReadOperand)
  | ldy (m : ReadOperand)
  | sta (m : MemMode)
  | stx (m : MemMode)
  | sty (m : MemMode)
  | tax
  | tay
  | txa
  | tya
  | tsx
  | txs
  -- 45_stack.md
  | pha
  | php
  | pla
  | plp
  -- 46_control_flow.md
  | bpl (d : Byte)
  | bmi (d : Byte)
  | bvc (d : Byte)
  | bvs (d : Byte)
  | bcc (d : Byte)
  | bcs (d : Byte)
  | bne (d : Byte)
  | beq (d : Byte)
  | jmp (m : JumpOperand)
  | jsr (w : Addr)
  | rts
  | brk
  | rti
  | nop
  -- 47_flag_ops.md
  | clc
  | cld
  | cli
  | clv
  | sec
  | sed
  | sei
  -- 30_encoding.md R104, R105
  | undocumented (op : Byte)
  deriving DecidableEq, Repr

end Sys2Proof
end

