-- ==== Sys2Proof/WellFormed.lean ====
section
/-! DEFINITION. Which (mnemonic, mode) pairs exist (R97), the mnemonic and mode of an instruction, and the check that an
instruction is one of the opcode table's rows. -/

namespace Sys2Proof

def MemMode.mode : MemMode → Mode
  | .zp _ => .zp
  | .zpx _ => .zpx
  | .zpy _ => .zpy
  | .abs _ => .abs
  | .absx _ => .absx
  | .absy _ => .absy
  | .indx _ => .indx
  | .indy _ => .indy

def ReadOperand.mode : ReadOperand → Mode
  | .imm _ => .imm
  | .mem m => m.mode

def RmwOperand.mode : RmwOperand → Mode
  | .acc => .acc
  | .mem m => m.mode

def JumpOperand.mode : JumpOperand → Mode
  | .abs _ => .abs
  | .ind _ => .ind

/-- The mnemonic of R97 and the mode of R95; none for an undocumented byte. -/
def Instr.form : Instr → Option (Mnemonic × Mode)
  | .adc m => some (.adc, m.mode)
  | .sbc m => some (.sbc, m.mode)
  | .cmp m => some (.cmp, m.mode)
  | .cpx m => some (.cpx, m.mode)
  | .cpy m => some (.cpy, m.mode)
  | .inc m => some (.inc, m.mode)
  | .dec m => some (.dec, m.mode)
  | .inx => some (.inx, .imp)
  | .iny => some (.iny, .imp)
  | .dex => some (.dex, .imp)
  | .dey => some (.dey, .imp)
  | .and m => some (.and, m.mode)
  | .ora m => some (.ora, m.mode)
  | .eor m => some (.eor, m.mode)
  | .bit m => some (.bit, m.mode)
  | .asl m => some (.asl, m.mode)
  | .lsr m => some (.lsr, m.mode)
  | .rol m => some (.rol, m.mode)
  | .ror m => some (.ror, m.mode)
  | .lda m => some (.lda, m.mode)
  | .ldx m => some (.ldx, m.mode)
  | .ldy m => some (.ldy, m.mode)
  | .sta m => some (.sta, m.mode)
  | .stx m => some (.stx, m.mode)
  | .sty m => some (.sty, m.mode)
  | .tax => some (.tax, .imp)
  | .tay => some (.tay, .imp)
  | .txa => some (.txa, .imp)
  | .tya => some (.tya, .imp)
  | .tsx => some (.tsx, .imp)
  | .txs => some (.txs, .imp)
  | .pha => some (.pha, .imp)
  | .php => some (.php, .imp)
  | .pla => some (.pla, .imp)
  | .plp => some (.plp, .imp)
  | .bpl _ => some (.bpl, .rel)
  | .bmi _ => some (.bmi, .rel)
  | .bvc _ => some (.bvc, .rel)
  | .bvs _ => some (.bvs, .rel)
  | .bcc _ => some (.bcc, .rel)
  | .bcs _ => some (.bcs, .rel)
  | .bne _ => some (.bne, .rel)
  | .beq _ => some (.beq, .rel)
  | .jmp m => some (.jmp, m.mode)
  | .jsr _ => some (.jsr, .abs)
  | .rts => some (.rts, .imp)
  | .brk => some (.brk, .imp)
  | .rti => some (.rti, .imp)
  | .nop => some (.nop, .imp)
  | .clc => some (.clc, .imp)
  | .cld => some (.cld, .imp)
  | .cli => some (.cli, .imp)
  | .clv => some (.clv, .imp)
  | .sec => some (.sec, .imp)
  | .sed => some (.sed, .imp)
  | .sei => some (.sei, .imp)
  | .undocumented _ => none

/-- Whether an instruction is one of the 151 documented rows' instructions, not an undocumented byte (R94). -/
def Instr.documented (i : Instr) : Bool := i.form.isSome

/-- The modes each mnemonic has, from the Forms line of its instruction rule. -/
def Mnemonic.modes : Mnemonic → List Mode
  | .adc | .sbc | .cmp | .and | .ora | .eor | .lda => [.imm, .zp, .zpx, .abs, .absx, .absy, .indx, .indy]
  | .sta => [.zp, .zpx, .abs, .absx, .absy, .indx, .indy]
  | .cpx | .cpy => [.imm, .zp, .abs]
  | .bit => [.zp, .abs]
  | .inc | .dec => [.zp, .zpx, .abs, .absx]
  | .asl | .lsr | .rol | .ror => [.acc, .zp, .zpx, .abs, .absx]
  | .ldx => [.imm, .zp, .zpy, .abs, .absy]
  | .ldy => [.imm, .zp, .zpx, .abs, .absx]
  | .stx => [.zp, .zpy, .abs]
  | .sty => [.zp, .zpx, .abs]
  | .bpl | .bmi | .bvc | .bvs | .bcc | .bcs | .bne | .beq => [.rel]
  | .jmp => [.abs, .ind]
  | .jsr => [.abs]
  | .inx | .iny | .dex | .dey | .tax | .tay | .txa | .tya | .tsx | .txs | .pha | .php | .pla | .plp
  | .rts | .brk | .rti | .nop | .clc | .cld | .cli | .clv | .sec | .sed | .sei => [.imp]

/-- R104: the 105 undocumented opcode bytes, as the rule lists them. -/
def undocumentedBytes : List Nat :=
  [0x02, 0x03, 0x04, 0x07, 0x0B, 0x0C, 0x0F, 0x12, 0x13, 0x14, 0x17, 0x1A, 0x1B, 0x1C, 0x1F] ++
  [0x22, 0x23, 0x27, 0x2B, 0x2F, 0x32, 0x33, 0x34, 0x37, 0x3A, 0x3B, 0x3C, 0x3F] ++
  [0x42, 0x43, 0x44, 0x47, 0x4B, 0x4F, 0x52, 0x53, 0x54, 0x57, 0x5A, 0x5B, 0x5C, 0x5F] ++
  [0x62, 0x63, 0x64, 0x67, 0x6B, 0x6F, 0x72, 0x73, 0x74, 0x77, 0x7A, 0x7B, 0x7C, 0x7F] ++
  [0x80, 0x82, 0x83, 0x87, 0x89, 0x8B, 0x8F, 0x92, 0x93, 0x97, 0x9B, 0x9C, 0x9E, 0x9F] ++
  [0xA3, 0xA7, 0xAB, 0xAF, 0xB2, 0xB3, 0xB7, 0xBB, 0xBF] ++
  [0xC2, 0xC3, 0xC7, 0xCB, 0xCF, 0xD2, 0xD3, 0xD4, 0xD7, 0xDA, 0xDB, 0xDC, 0xDF] ++
  [0xE2, 0xE3, 0xE7, 0xEB, 0xEF, 0xF2, 0xF3, 0xF4, 0xF7, 0xFA, 0xFB, 0xFC, 0xFF]

/-- An instruction is well-formed when it is a row of the opcode table: its mnemonic has its mode (R97), or its byte is
one of R104's. -/
def Instr.wellFormed (i : Instr) : Bool :=
  match i with
  | .undocumented op => undocumentedBytes.contains op.toNat
  | i => match i.form with
    | some (mn, mode) => mn.modes.contains mode
    | none => false

end Sys2Proof
end

