-- ==== Sys2Proof/Decode.lean ====
section
/-! DEFINITION. The instruction decoder of 30_encoding.md: byte order, the 256-entry table (R94, R96), the length (R93), the
admitted set (R99), the assembly of the operand bytes (R92), the decoder on a list of bytes, and the encoder written from the
mnemonic-indexed table (R97). -/

namespace Sys2Proof

/-- R92, R70: a 16-bit quantity from its low and high byte. -/
def le16 (lo hi : Byte) : Addr := hi ++ lo

def loByte (w : Addr) : Byte := w.extractLsb' 0 8

def hiByte (w : Addr) : Byte := w.extractLsb' 8 8

/-- R9: zext_16. -/
def zext16 (b : Byte) : Addr := b.setWidth 16

/-- R9: sext_16. -/
def sext16 (b : Byte) : Addr := b.signExtend 16

/-- R96, row 0x, by the low nibble. -/
def opcodeRow0 : Nat → Option (Mnemonic × Mode)
  | 0x0 => some (.brk, .imp)
  | 0x1 => some (.ora, .indx)
  | 0x5 => some (.ora, .zp)
  | 0x6 => some (.asl, .zp)
  | 0x8 => some (.php, .imp)
  | 0x9 => some (.ora, .imm)
  | 0xA => some (.asl, .acc)
  | 0xD => some (.ora, .abs)
  | 0xE => some (.asl, .abs)
  | _ => none

/-- R96, row 1x, by the low nibble. -/
def opcodeRow1 : Nat → Option (Mnemonic × Mode)
  | 0x0 => some (.bpl, .rel)
  | 0x1 => some (.ora, .indy)
  | 0x5 => some (.ora, .zpx)
  | 0x6 => some (.asl, .zpx)
  | 0x8 => some (.clc, .imp)
  | 0x9 => some (.ora, .absy)
  | 0xD => some (.ora, .absx)
  | 0xE => some (.asl, .absx)
  | _ => none

/-- R96, row 2x, by the low nibble. -/
def opcodeRow2 : Nat → Option (Mnemonic × Mode)
  | 0x0 => some (.jsr, .abs)
  | 0x1 => some (.and, .indx)
  | 0x4 => some (.bit, .zp)
  | 0x5 => some (.and, .zp)
  | 0x6 => some (.rol, .zp)
  | 0x8 => some (.plp, .imp)
  | 0x9 => some (.and, .imm)
  | 0xA => some (.rol, .acc)
  | 0xC => some (.bit, .abs)
  | 0xD => some (.and, .abs)
  | 0xE => some (.rol, .abs)
  | _ => none

/-- R96, row 3x, by the low nibble. -/
def opcodeRow3 : Nat → Option (Mnemonic × Mode)
  | 0x0 => some (.bmi, .rel)
  | 0x1 => some (.and, .indy)
  | 0x5 => some (.and, .zpx)
  | 0x6 => some (.rol, .zpx)
  | 0x8 => some (.sec, .imp)
  | 0x9 => some (.and, .absy)
  | 0xD => some (.and, .absx)
  | 0xE => some (.rol, .absx)
  | _ => none

/-- R96, row 4x, by the low nibble. -/
def opcodeRow4 : Nat → Option (Mnemonic × Mode)
  | 0x0 => some (.rti, .imp)
  | 0x1 => some (.eor, .indx)
  | 0x5 => some (.eor, .zp)
  | 0x6 => some (.lsr, .zp)
  | 0x8 => some (.pha, .imp)
  | 0x9 => some (.eor, .imm)
  | 0xA => some (.lsr, .acc)
  | 0xC => some (.jmp, .abs)
  | 0xD => some (.eor, .abs)
  | 0xE => some (.lsr, .abs)
  | _ => none

/-- R96, row 5x, by the low nibble. -/
def opcodeRow5 : Nat → Option (Mnemonic × Mode)
  | 0x0 => some (.bvc, .rel)
  | 0x1 => some (.eor, .indy)
  | 0x5 => some (.eor, .zpx)
  | 0x6 => some (.lsr, .zpx)
  | 0x8 => some (.cli, .imp)
  | 0x9 => some (.eor, .absy)
  | 0xD => some (.eor, .absx)
  | 0xE => some (.lsr, .absx)
  | _ => none

/-- R96, row 6x, by the low nibble. -/
def opcodeRow6 : Nat → Option (Mnemonic × Mode)
  | 0x0 => some (.rts, .imp)
  | 0x1 => some (.adc, .indx)
  | 0x5 => some (.adc, .zp)
  | 0x6 => some (.ror, .zp)
  | 0x8 => some (.pla, .imp)
  | 0x9 => some (.adc, .imm)
  | 0xA => some (.ror, .acc)
  | 0xC => some (.jmp, .ind)
  | 0xD => some (.adc, .abs)
  | 0xE => some (.ror, .abs)
  | _ => none

/-- R96, row 7x, by the low nibble. -/
def opcodeRow7 : Nat → Option (Mnemonic × Mode)
  | 0x0 => some (.bvs, .rel)
  | 0x1 => some (.adc, .indy)
  | 0x5 => some (.adc, .zpx)
  | 0x6 => some (.ror, .zpx)
  | 0x8 => some (.sei, .imp)
  | 0x9 => some (.adc, .absy)
  | 0xD => some (.adc, .absx)
  | 0xE => some (.ror, .absx)
  | _ => none

/-- R96, row 8x, by the low nibble. -/
def opcodeRow8 : Nat → Option (Mnemonic × Mode)
  | 0x1 => some (.sta, .indx)
  | 0x4 => some (.sty, .zp)
  | 0x5 => some (.sta, .zp)
  | 0x6 => some (.stx, .zp)
  | 0x8 => some (.dey, .imp)
  | 0xA => some (.txa, .imp)
  | 0xC => some (.sty, .abs)
  | 0xD => some (.sta, .abs)
  | 0xE => some (.stx, .abs)
  | _ => none

/-- R96, row 9x, by the low nibble. -/
def opcodeRow9 : Nat → Option (Mnemonic × Mode)
  | 0x0 => some (.bcc, .rel)
  | 0x1 => some (.sta, .indy)
  | 0x4 => some (.sty, .zpx)
  | 0x5 => some (.sta, .zpx)
  | 0x6 => some (.stx, .zpy)
  | 0x8 => some (.tya, .imp)
  | 0x9 => some (.sta, .absy)
  | 0xA => some (.txs, .imp)
  | 0xD => some (.sta, .absx)
  | _ => none

/-- R96, row Ax, by the low nibble. -/
def opcodeRowA : Nat → Option (Mnemonic × Mode)
  | 0x0 => some (.ldy, .imm)
  | 0x1 => some (.lda, .indx)
  | 0x2 => some (.ldx, .imm)
  | 0x4 => some (.ldy, .zp)
  | 0x5 => some (.lda, .zp)
  | 0x6 => some (.ldx, .zp)
  | 0x8 => some (.tay, .imp)
  | 0x9 => some (.lda, .imm)
  | 0xA => some (.tax, .imp)
  | 0xC => some (.ldy, .abs)
  | 0xD => some (.lda, .abs)
  | 0xE => some (.ldx, .abs)
  | _ => none

/-- R96, row Bx, by the low nibble. -/
def opcodeRowB : Nat → Option (Mnemonic × Mode)
  | 0x0 => some (.bcs, .rel)
  | 0x1 => some (.lda, .indy)
  | 0x4 => some (.ldy, .zpx)
  | 0x5 => some (.lda, .zpx)
  | 0x6 => some (.ldx, .zpy)
  | 0x8 => some (.clv, .imp)
  | 0x9 => some (.lda, .absy)
  | 0xA => some (.tsx, .imp)
  | 0xC => some (.ldy, .absx)
  | 0xD => some (.lda, .absx)
  | 0xE => some (.ldx, .absy)
  | _ => none

/-- R96, row Cx, by the low nibble. -/
def opcodeRowC : Nat → Option (Mnemonic × Mode)
  | 0x0 => some (.cpy, .imm)
  | 0x1 => some (.cmp, .indx)
  | 0x4 => some (.cpy, .zp)
  | 0x5 => some (.cmp, .zp)
  | 0x6 => some (.dec, .zp)
  | 0x8 => some (.iny, .imp)
  | 0x9 => some (.cmp, .imm)
  | 0xA => some (.dex, .imp)
  | 0xC => some (.cpy, .abs)
  | 0xD => some (.cmp, .abs)
  | 0xE => some (.dec, .abs)
  | _ => none

/-- R96, row Dx, by the low nibble. -/
def opcodeRowD : Nat → Option (Mnemonic × Mode)
  | 0x0 => some (.bne, .rel)
  | 0x1 => some (.cmp, .indy)
  | 0x5 => some (.cmp, .zpx)
  | 0x6 => some (.dec, .zpx)
  | 0x8 => some (.cld, .imp)
  | 0x9 => some (.cmp, .absy)
  | 0xD => some (.cmp, .absx)
  | 0xE => some (.dec, .absx)
  | _ => none

/-- R96, row Ex, by the low nibble. -/
def opcodeRowE : Nat → Option (Mnemonic × Mode)
  | 0x0 => some (.cpx, .imm)
  | 0x1 => some (.sbc, .indx)
  | 0x4 => some (.cpx, .zp)
  | 0x5 => some (.sbc, .zp)
  | 0x6 => some (.inc, .zp)
  | 0x8 => some (.inx, .imp)
  | 0x9 => some (.sbc, .imm)
  | 0xA => some (.nop, .imp)
  | 0xC => some (.cpx, .abs)
  | 0xD => some (.sbc, .abs)
  | 0xE => some (.inc, .abs)
  | _ => none

/-- R96, row Fx, by the low nibble. -/
def opcodeRowF : Nat → Option (Mnemonic × Mode)
  | 0x0 => some (.beq, .rel)
  | 0x1 => some (.sbc, .indy)
  | 0x5 => some (.sbc, .zpx)
  | 0x6 => some (.inc, .zpx)
  | 0x8 => some (.sed, .imp)
  | 0x9 => some (.sbc, .absy)
  | 0xD => some (.sbc, .absx)
  | 0xE => some (.inc, .absx)
  | _ => none
/-- R94, R96: Decode8, the flat table keyed by the whole opcode byte; none is Undocumented. -/
def decode8 (op : Byte) : Option (Mnemonic × Mode) :=
  match op.toNat / 16 with
  | 0x0 => opcodeRow0 (op.toNat % 16)
  | 0x1 => opcodeRow1 (op.toNat % 16)
  | 0x2 => opcodeRow2 (op.toNat % 16)
  | 0x3 => opcodeRow3 (op.toNat % 16)
  | 0x4 => opcodeRow4 (op.toNat % 16)
  | 0x5 => opcodeRow5 (op.toNat % 16)
  | 0x6 => opcodeRow6 (op.toNat % 16)
  | 0x7 => opcodeRow7 (op.toNat % 16)
  | 0x8 => opcodeRow8 (op.toNat % 16)
  | 0x9 => opcodeRow9 (op.toNat % 16)
  | 0xA => opcodeRowA (op.toNat % 16)
  | 0xB => opcodeRowB (op.toNat % 16)
  | 0xC => opcodeRowC (op.toNat % 16)
  | 0xD => opcodeRowD (op.toNat % 16)
  | 0xE => opcodeRowE (op.toNat % 16)
  | 0xF => opcodeRowF (op.toNat % 16)
  | _ => none

/-- R93: the length in bytes of an instruction with this mode. -/
def Mode.length : Mode → Nat
  | .imp | .acc => 1
  | .imm | .zp | .zpx | .zpy | .rel | .indx | .indy => 2
  | .abs | .absx | .absy | .ind => 3

/-- R93: the length from the opcode byte alone. R93 gives an undocumented byte no length; the model gives it the one byte of
its table row (log entry 9). -/
def opcodeLength (op : Byte) : Nat :=
  match decode8 op with
  | some (_, mode) => mode.length
  | none => 1

/-- R100: the 41 mnemonics the source names. -/
def Mnemonic.sourceNamed : Mnemonic → Bool
  | .adc | .sbc | .and | .ora | .eor | .bit | .asl | .rol | .cmp | .cpx | .cpy
  | .lda | .ldx | .ldy | .sta | .stx | .sty
  | .bpl | .bmi | .bvc | .bvs | .bcc | .bcs | .bne | .beq
  | .pha | .php | .pla | .plp | .tax | .txa | .txs | .dex | .dey
  | .clc | .cld | .cli | .clv | .jsr | .brk | .nop => true
  | .lsr | .ror | .inc | .dec | .inx | .iny | .tay | .tya | .tsx | .sec | .sed | .sei | .jmp | .rts | .rti => false

/-- R99: whether an admitted set holds a mnemonic. -/
def admitsMnemonic (set : Config.AdmittedSet) (mn : Mnemonic) : Bool :=
  match set with
  | .documented151 => true
  | .sourceNamed => mn.sourceNamed

/-- R99, R105: whether an opcode byte is documented and in the admitted set. -/
def admitsOpcode (set : Config.AdmittedSet) (op : Byte) : Bool :=
  match decode8 op with
  | some (mn, _) => admitsMnemonic set mn
  | none => false

/-- R92: the operand of a memory mode from the bytes after the opcode. -/
def memModeOf (mode : Mode) (b1 b2 : Byte) : Option MemMode :=
  match mode with
  | .zp => some (.zp b1)
  | .zpx => some (.zpx b1)
  | .zpy => some (.zpy b1)
  | .abs => some (.abs (le16 b1 b2))
  | .absx => some (.absx (le16 b1 b2))
  | .absy => some (.absy (le16 b1 b2))
  | .indx => some (.indx b1)
  | .indy => some (.indy b1)
  | .imp | .acc | .imm | .rel | .ind => none

def readOperandOf (mode : Mode) (b1 b2 : Byte) : Option ReadOperand :=
  match mode with
  | .imm => some (.imm b1)
  | _ => (memModeOf mode b1 b2).map .mem

def rmwOperandOf (mode : Mode) (b1 b2 : Byte) : Option RmwOperand :=
  match mode with
  | .acc => some .acc
  | _ => (memModeOf mode b1 b2).map .mem

def jumpOperandOf (mode : Mode) (b1 b2 : Byte) : Option JumpOperand :=
  match mode with
  | .abs => some (.abs (le16 b1 b2))
  | .ind => some (.ind (le16 b1 b2))
  | _ => none

/-- The instruction of a mnemonic and mode with its operand bytes; none where the mode delivers no operand of the
mnemonic's class (R120). -/
def buildInstr (mn : Mnemonic) (mode : Mode) (b1 b2 : Byte) : Option Instr :=
  match mn with
  | .adc => (readOperandOf mode b1 b2).map .adc
  | .sbc => (readOperandOf mode b1 b2).map .sbc
  | .cmp => (readOperandOf mode b1 b2).map .cmp
  | .cpx => (readOperandOf mode b1 b2).map .cpx
  | .cpy => (readOperandOf mode b1 b2).map .cpy
  | .inc => (memModeOf mode b1 b2).map .inc
  | .dec => (memModeOf mode b1 b2).map .dec
  | .inx => some .inx
  | .iny => some .iny
  | .dex => some .dex
  | .dey => some .dey
  | .and => (readOperandOf mode b1 b2).map .and
  | .ora => (readOperandOf mode b1 b2).map .ora
  | .eor => (readOperandOf mode b1 b2).map .eor
  | .bit => (memModeOf mode b1 b2).map .bit
  | .asl => (rmwOperandOf mode b1 b2).map .asl
  | .lsr => (rmwOperandOf mode b1 b2).map .lsr
  | .rol => (rmwOperandOf mode b1 b2).map .rol
  | .ror => (rmwOperandOf mode b1 b2).map .ror
  | .lda => (readOperandOf mode b1 b2).map .lda
  | .ldx => (readOperandOf mode b1 b2).map .ldx
  | .ldy => (readOperandOf mode b1 b2).map .ldy
  | .sta => (memModeOf mode b1 b2).map .sta
  | .stx => (memModeOf mode b1 b2).map .stx
  | .sty => (memModeOf mode b1 b2).map .sty
  | .tax => some .tax
  | .tay => some .tay
  | .txa => some .txa
  | .tya => some .tya
  | .tsx => some .tsx
  | .txs => some .txs
  | .pha => some .pha
  | .php => some .php
  | .pla => some .pla
  | .plp => some .plp
  | .bpl => some (.bpl b1)
  | .bmi => some (.bmi b1)
  | .bvc => some (.bvc b1)
  | .bvs => some (.bvs b1)
  | .bcc => some (.bcc b1)
  | .bcs => some (.bcs b1)
  | .bne => some (.bne b1)
  | .beq => some (.beq b1)
  | .jmp => (jumpOperandOf mode b1 b2).map .jmp
  | .jsr => some (.jsr (le16 b1 b2))
  | .rts => some .rts
  | .brk => some .brk
  | .rti => some .rti
  | .nop => some .nop
  | .clc => some .clc
  | .cld => some .cld
  | .cli => some .cli
  | .clv => some .clv
  | .sec => some .sec
  | .sed => some .sed
  | .sei => some .sei

/-- R94, R107: the instruction of an opcode byte and the two bytes after it. Total: a byte the table does not document is
the instruction undocumented. Bytes past the instruction's length are not used. -/
def instrOf (op b1 b2 : Byte) : Instr :=
  match decode8 op with
  | some (mn, mode) => (buildInstr mn mode b1 b2).getD (.undocumented op)
  | none => .undocumented op

/-- Why a list of bytes decodes to nothing: the model's own names (log entry 21). The machine decodes no such list, since
every address holds a byte. -/
inductive DecodeError where
  /-- There is no opcode byte. -/
  | noOpcode
  /-- The list ends before the instruction's last byte (R93). -/
  | truncated (op : Byte)
  deriving DecidableEq, Repr

/-- R90, R107: one instruction off the front of a list of bytes, and the bytes after it. -/
def decode (bytes : List Byte) : Except DecodeError (Instr × List Byte) :=
  match bytes with
  | [] => .error .noOpcode
  | op :: rest =>
    if rest.length + 1 < opcodeLength op then .error (.truncated op)
    else .ok (instrOf op (rest.getD 0 0#8) (rest.getD 1 0#8), rest.drop (opcodeLength op - 1))

/-- R97: the opcode byte of a (mnemonic, mode) pair; none where the pair does not exist. -/
def opcodeOf (mn : Mnemonic) (mode : Mode) : Option Byte :=
  match mn, mode with
  | .adc, .imm => some 0x69#8
  | .adc, .zp => some 0x65#8
  | .adc, .zpx => some 0x75#8
  | .adc, .abs => some 0x6D#8
  | .adc, .absx => some 0x7D#8
  | .adc, .absy => some 0x79#8
  | .adc, .indx => some 0x61#8
  | .adc, .indy => some 0x71#8
  | .and, .imm => some 0x29#8
  | .and, .zp => some 0x25#8
  | .and, .zpx => some 0x35#8
  | .and, .abs => some 0x2D#8
  | .and, .absx => some 0x3D#8
  | .and, .absy => some 0x39#8
  | .and, .indx => some 0x21#8
  | .and, .indy => some 0x31#8
  | .asl, .acc => some 0x0A#8
  | .asl, .zp => some 0x06#8
  | .asl, .zpx => some 0x16#8
  | .asl, .abs => some 0x0E#8
  | .asl, .absx => some 0x1E#8
  | .bcc, .rel => some 0x90#8
  | .bcs, .rel => some 0xB0#8
  | .beq, .rel => some 0xF0#8
  | .bit, .zp => some 0x24#8
  | .bit, .abs => some 0x2C#8
  | .bmi, .rel => some 0x30#8
  | .bne, .rel => some 0xD0#8
  | .bpl, .rel => some 0x10#8
  | .brk, .imp => some 0x00#8
  | .bvc, .rel => some 0x50#8
  | .bvs, .rel => some 0x70#8
  | .clc, .imp => some 0x18#8
  | .cld, .imp => some 0xD8#8
  | .cli, .imp => some 0x58#8
  | .clv, .imp => some 0xB8#8
  | .cmp, .imm => some 0xC9#8
  | .cmp, .zp => some 0xC5#8
  | .cmp, .zpx => some 0xD5#8
  | .cmp, .abs => some 0xCD#8
  | .cmp, .absx => some 0xDD#8
  | .cmp, .absy => some 0xD9#8
  | .cmp, .indx => some 0xC1#8
  | .cmp, .indy => some 0xD1#8
  | .cpx, .imm => some 0xE0#8
  | .cpx, .zp => some 0xE4#8
  | .cpx, .abs => some 0xEC#8
  | .cpy, .imm => some 0xC0#8
  | .cpy, .zp => some 0xC4#8
  | .cpy, .abs => some 0xCC#8
  | .dec, .zp => some 0xC6#8
  | .dec, .zpx => some 0xD6#8
  | .dec, .abs => some 0xCE#8
  | .dec, .absx => some 0xDE#8
  | .dex, .imp => some 0xCA#8
  | .dey, .imp => some 0x88#8
  | .eor, .imm => some 0x49#8
  | .eor, .zp => some 0x45#8
  | .eor, .zpx => some 0x55#8
  | .eor, .abs => some 0x4D#8
  | .eor, .absx => some 0x5D#8
  | .eor, .absy => some 0x59#8
  | .eor, .indx => some 0x41#8
  | .eor, .indy => some 0x51#8
  | .inc, .zp => some 0xE6#8
  | .inc, .zpx => some 0xF6#8
  | .inc, .abs => some 0xEE#8
  | .inc, .absx => some 0xFE#8
  | .inx, .imp => some 0xE8#8
  | .iny, .imp => some 0xC8#8
  | .jmp, .abs => some 0x4C#8
  | .jmp, .ind => some 0x6C#8
  | .jsr, .abs => some 0x20#8
  | .lda, .imm => some 0xA9#8
  | .lda, .zp => some 0xA5#8
  | .lda, .zpx => some 0xB5#8
  | .lda, .abs => some 0xAD#8
  | .lda, .absx => some 0xBD#8
  | .lda, .absy => some 0xB9#8
  | .lda, .indx => some 0xA1#8
  | .lda, .indy => some 0xB1#8
  | .ldx, .imm => some 0xA2#8
  | .ldx, .zp => some 0xA6#8
  | .ldx, .zpy => some 0xB6#8
  | .ldx, .abs => some 0xAE#8
  | .ldx, .absy => some 0xBE#8
  | .ldy, .imm => some 0xA0#8
  | .ldy, .zp => some 0xA4#8
  | .ldy, .zpx => some 0xB4#8
  | .ldy, .abs => some 0xAC#8
  | .ldy, .absx => some 0xBC#8
  | .lsr, .acc => some 0x4A#8
  | .lsr, .zp => some 0x46#8
  | .lsr, .zpx => some 0x56#8
  | .lsr, .abs => some 0x4E#8
  | .lsr, .absx => some 0x5E#8
  | .nop, .imp => some 0xEA#8
  | .ora, .imm => some 0x09#8
  | .ora, .zp => some 0x05#8
  | .ora, .zpx => some 0x15#8
  | .ora, .abs => some 0x0D#8
  | .ora, .absx => some 0x1D#8
  | .ora, .absy => some 0x19#8
  | .ora, .indx => some 0x01#8
  | .ora, .indy => some 0x11#8
  | .pha, .imp => some 0x48#8
  | .php, .imp => some 0x08#8
  | .pla, .imp => some 0x68#8
  | .plp, .imp => some 0x28#8
  | .rol, .acc => some 0x2A#8
  | .rol, .zp => some 0x26#8
  | .rol, .zpx => some 0x36#8
  | .rol, .abs => some 0x2E#8
  | .rol, .absx => some 0x3E#8
  | .ror, .acc => some 0x6A#8
  | .ror, .zp => some 0x66#8
  | .ror, .zpx => some 0x76#8
  | .ror, .abs => some 0x6E#8
  | .ror, .absx => some 0x7E#8
  | .rti, .imp => some 0x40#8
  | .rts, .imp => some 0x60#8
  | .sbc, .imm => some 0xE9#8
  | .sbc, .zp => some 0xE5#8
  | .sbc, .zpx => some 0xF5#8
  | .sbc, .abs => some 0xED#8
  | .sbc, .absx => some 0xFD#8
  | .sbc, .absy => some 0xF9#8
  | .sbc, .indx => some 0xE1#8
  | .sbc, .indy => some 0xF1#8
  | .sec, .imp => some 0x38#8
  | .sed, .imp => some 0xF8#8
  | .sei, .imp => some 0x78#8
  | .sta, .zp => some 0x85#8
  | .sta, .zpx => some 0x95#8
  | .sta, .abs => some 0x8D#8
  | .sta, .absx => some 0x9D#8
  | .sta, .absy => some 0x99#8
  | .sta, .indx => some 0x81#8
  | .sta, .indy => some 0x91#8
  | .stx, .zp => some 0x86#8
  | .stx, .zpy => some 0x96#8
  | .stx, .abs => some 0x8E#8
  | .sty, .zp => some 0x84#8
  | .sty, .zpx => some 0x94#8
  | .sty, .abs => some 0x8C#8
  | .tax, .imp => some 0xAA#8
  | .tay, .imp => some 0xA8#8
  | .tsx, .imp => some 0xBA#8
  | .txa, .imp => some 0x8A#8
  | .txs, .imp => some 0x9A#8
  | .tya, .imp => some 0x98#8
  | _, _ => none

/-- R90: the operand bytes after the opcode, low byte first. -/
def wordBytes (w : Addr) : List Byte := [loByte w, hiByte w]

def MemMode.bytes : MemMode → List Byte
  | .zp b | .zpx b | .zpy b | .indx b | .indy b => [b]
  | .abs w | .absx w | .absy w => wordBytes w

def ReadOperand.bytes : ReadOperand → List Byte
  | .imm b => [b]
  | .mem m => m.bytes

def RmwOperand.bytes : RmwOperand → List Byte
  | .acc => []
  | .mem m => m.bytes

def JumpOperand.bytes : JumpOperand → List Byte
  | .abs w | .ind w => wordBytes w

def Instr.operandBytes : Instr → List Byte
  | .adc m | .sbc m | .cmp m | .cpx m | .cpy m | .and m | .ora m | .eor m | .lda m | .ldx m | .ldy m => m.bytes
  | .inc m | .dec m | .bit m | .sta m | .stx m | .sty m => m.bytes
  | .asl m | .lsr m | .rol m | .ror m => m.bytes
  | .bpl d | .bmi d | .bvc d | .bvs d | .bcc d | .bcs d | .bne d | .beq d => [d]
  | .jmp m => m.bytes
  | .jsr w => wordBytes w
  | .inx | .iny | .dex | .dey | .tax | .tay | .txa | .tya | .tsx | .txs | .pha | .php | .pla | .plp
  | .rts | .brk | .rti | .nop | .clc | .cld | .cli | .clv | .sec | .sed | .sei | .undocumented _ => []

/-- R90, R97: the bytes of a well-formed instruction; an ill-formed one has none. -/
def encode (i : Instr) : List Byte :=
  match i with
  | .undocumented op => if i.wellFormed then [op] else []
  | i => match i.form with
    | some (mn, mode) => match opcodeOf mn mode with
      | some op => op :: i.operandBytes
      | none => []
    | none => []

/-- The first three bytes of an instruction numbered as the opcode table numbers bits: byte 0 is bits 7..0 of w, and the
bits at and above nbits are zero. -/
def tableBytes (nbits w : Nat) : List Byte :=
  let v := w % 2 ^ nbits
  [BitVec.ofNat 8 v, BitVec.ofNat 8 (v / 0x100), BitVec.ofNat 8 (v / 0x10000)]

/-- The instruction the decoder reads from a word of the opcode table. -/
def decodeTableWord (nbits w : Nat) : Option Instr :=
  match decode (tableBytes nbits w) with
  | .ok (i, _) => some i
  | .error _ => none

end Sys2Proof
end

