-- ==== Sys2Proof/Machine/State.lean ====
section
/-! DEFINITION. The machine's state (R30): registers, status flags, instruction-cycle latches and bus storage, as plain data;
the reasons a step stops; and the state after reset (R47, R340). -/

namespace Sys2Proof.Machine

/-- R39, R40: the six stored flags of P. Bits 5 and 4 of the byte are no storage. -/
structure Status where
  n : Bool
  v : Bool
  d : Bool
  i : Bool
  z : Bool
  c : Bool
  deriving DecidableEq, Repr

/-- R39, R233: the six flags of a byte in P's layout; bits 5 and 4 are discarded. -/
def Status.ofBits (b : Byte) : Status :=
  { n := b.getLsbD 7, v := b.getLsbD 6, d := b.getLsbD 3, i := b.getLsbD 2, z := b.getLsbD 1, c := b.getLsbD 0 }

/-- R61: bus storage as a list of (storage index, byte) with rising indices. A listed index holds its byte; an index that
is not listed has had nothing loaded or stored and holds the draw of R69. -/
structure Memory where
  cells : List Host.Cell
  deriving DecidableEq, Repr

/-- R69: what a storage index that is not listed reads as. -/
def Memory.unlisted (i : Nat) : Byte := Config.initMem i

/-- R30: the state tuple, and draws. -/
structure State where
  /-- R31 -/
  a : Byte
  /-- R32 -/
  x : Byte
  /-- R33 -/
  y : Byte
  /-- R34 -/
  sp : Byte
  /-- R38 -/
  pc : Addr
  /-- R39, R40 -/
  p : Status
  /-- R45: true at an instruction boundary (R331) -/
  ready : Bool
  /-- R45: the opcode latch -/
  opcode : Byte
  /-- R45: the engine's position in the instruction -/
  cycle : Nat
  /-- R45, R334 -/
  scratch : Addr
  /-- R61 -/
  mem : Memory
  /-- The model's own field, not the spec's: how many free values have been drawn for scratch (log entry 3). -/
  draws : Nat
  deriving DecidableEq, Repr

/-- Why the machine stops with a fault. -/
inductive Fault where
  /-- Raised by the engine step (R332) on a state whose cycle counter is past the final cycle of the latched instruction, for
  which R332 has no case. No step leads from a state that meets State.Inv to one that raises it. Safe: the model stops.
  Log entry 5. -/
  | cyclePastFinal (opcode : Byte) (cycle : Nat)
  deriving DecidableEq, Repr

/-- Why an instruction or a construction has no meaning. -/
inductive Refusal where
  /-- Raised by an arm of exec whose instruction has no meaning in the model. Safe. -/
  | notModelled (mnemonic : String)
  /-- R105, R301: raised by the fetch step, and by exec of an undocumented byte, on a byte the opcode table does not document
  or the admitted set leaves out. Safe: the spec's own refusal. -/
  | undocumentedOpcode (op : Byte) (pc0 : Addr)
  /-- R68, R301: raised by construction on a program image that does not fit. Safe: the spec's own refusal. -/
  | loadOutOfRange (origin : Addr) (len : Nat)
  deriving DecidableEq, Repr

/-- R340: the constructed state for the given reset registers, program counter and bus storage. -/
def State.constructed (regs : Config.ResetRegs) (pc : Addr) (mem : Memory) : State :=
  { a := regs.a, x := regs.x, y := regs.y, sp := regs.sp, pc := pc, p := Status.ofBits regs.p
    ready := true, opcode := 0x00#8, cycle := 0, scratch := 0x0000#16, mem := mem, draws := 0 }

/-- R47, R340 with nothing loaded: every storage byte is its draw, and under RESET_PC_SOURCE = Vector the program counter is
read from the drawn bytes at 0xFFFC and 0xFFFD. -/
def State.reset : State :=
  State.constructed Config.resetRegs
    (match Config.resetPcSource with
      | .fixed a => a
      | .vector => Memory.unlisted 0xFFFD ++ Memory.unlisted 0xFFFC)
    { cells := [] }

end Sys2Proof.Machine
end

