-- ==== Sys2Proof/Machine/Ops.lean ====
section
/-! DEFINITION. The named operations over bus storage and registers: address decode and mirroring (20_memory.md), byte reads
and writes, the stack (10_state.md R34 to R37), the status byte (R40, R42), the program counter (R137), taking the break trap
and returning from it (60_exceptions.md). -/

namespace Sys2Proof.Machine

/-- R62: Decode(a), the storage index of an address, for a value of RAM_MASK. -/
def storageIndex (ramMask a : Addr) : Nat :=
  if a ≤ 0x1FFF#16 then (a &&& ramMask).toNat
  else if a ≤ 0x3FFF#16 then (0x2000#16 ||| (a &&& 0x0007#16)).toNat
  else a.toNat

/-- R62 at the model's RAM_MASK. -/
def busIndex (a : Addr) : Nat := storageIndex Config.ramMask a

/-- R61: the storage indices the address decode can produce. -/
def reachableIndex (i : Nat) : Bool := decide (i < 0x10000) && busIndex (BitVec.ofNat 16 i) == i

def lookupCells : List Host.Cell → Nat → Option Byte
  | [], _ => none
  | c :: cs, i => if c.1 = i then some c.2 else lookupCells cs i

def putCells : List Host.Cell → Nat → Byte → List Host.Cell
  | [], i, v => [(i, v)]
  | c :: cs, i, v =>
    if i < c.1 then (i, v) :: c :: cs
    else if i = c.1 then (i, v) :: cs
    else c :: putCells cs i v

/-- R63, R69: the byte last written to a storage index, or its draw. -/
def Memory.get (m : Memory) (i : Nat) : Byte := (lookupCells m.cells i).getD (Memory.unlisted i)

/-- R63: a write stores the byte. -/
def Memory.set (m : Memory) (i : Nat) (v : Byte) : Memory := { cells := putCells m.cells i v }

/-- Storage indices strictly rise. -/
def risingCells : List Host.Cell → Bool
  | [] => true
  | [_] => true
  | c :: d :: cs => decide (c.1 < d.1) && risingCells (d :: cs)

/-- The canonical form of bus storage: rising indices, each of them one that an address decodes to (R61). -/
def Memory.wf (m : Memory) : Bool := risingCells m.cells && m.cells.all fun c => reachableIndex c.1

/-- R62: MemRead. -/
def State.read (s : State) (a : Addr) : Byte := s.mem.get (busIndex a)

/-- R62: MemWrite. -/
def State.write (s : State) (a : Addr) (v : Byte) : State := { s with mem := s.mem.set (busIndex a) v }

/-- R70: MemRead16. -/
def State.read16 (s : State) (a : Addr) : Addr := le16 (s.read a) (s.read (a + 1#16))

/-- R68: the bytes of an image copied into the bus from an origin upward. -/
def loadBytes (m : Memory) (origin : Addr) : List Byte → Memory
  | [] => m
  | b :: bs => loadBytes (m.set (busIndex origin) b) (origin + 1#16) bs

/-- R34: the address of the stack byte a stack pointer designates. -/
def stackAddr (sp : Byte) : Addr := 0x0100#16 ||| zext16 sp

/-- R35: Push. -/
def State.push (s : State) (v : Byte) : State := { s.write (stackAddr s.sp) v with sp := s.sp - 1#8 }

/-- R36: the byte Pull returns. -/
def State.pulled (s : State) : Byte := s.read (stackAddr (s.sp + 1#8))

/-- R36: the state after Pull. -/
def State.afterPull (s : State) : State := { s with sp := s.sp + 1#8 }

/-- R37: a 16-bit value is pushed high byte first. -/
def State.push16 (s : State) (w : Addr) : State := (s.push (hiByte w)).push (loByte w)

/-- R37: the matching 16-bit pull, low byte first. -/
def State.pulled16 (s : State) : Addr := le16 s.pulled s.afterPull.pulled

def State.afterPull16 (s : State) : State := s.afterPull.afterPull

/-- R42: the status image with the given B bit: bit 5 set and bit 4 = b. -/
def Status.image (p : Status) (b : Bool) : Byte :=
  BitVec.ofBool p.n ++ BitVec.ofBool p.v ++ 1#1 ++ BitVec.ofBool b ++
  BitVec.ofBool p.d ++ BitVec.ofBool p.i ++ BitVec.ofBool p.z ++ BitVec.ofBool p.c

/-- R40: P read as a byte: bit 5 reads 1 and bit 4 reads 0. -/
def Status.byte (p : Status) : Byte := p.image false

/-- R233, R253: a whole byte written to P; bits 5 and 4 are discarded. -/
def Status.ofByte (b : Byte) : Status := Status.ofBits b

/-- R137: PC moved past len bytes. -/
def State.advance (s : State) (len : Nat) : State := { s with pc := s.pc + BitVec.ofNat 16 len }

/-- R252, R305: taking the one trap, from the address of the BRK opcode in PC: the return address PC0 + 2, high byte first,
then the status image with B = 1, onto the stack; I set; PC from the vector at 0xFFFE, read after the pushes. -/
def State.takeBreak (s : State) : State :=
  let t := (s.push16 (s.pc + 2#16)).push (s.p.image true)
  { t with p := { t.p with i := true }, pc := t.read16 0xFFFE#16 }

/-- R253, R306: the return from the trap: the status byte, then the return address, low byte first, with no +1. -/
def State.returnFromBreak (s : State) : State :=
  let t := s.afterPull
  { t.afterPull16 with p := Status.ofByte s.pulled, pc := t.pulled16 }

end Sys2Proof.Machine
end

