-- ==== Sys2Proof/Machine/Flags.lean ====
section
/-! DEFINITION. The flag primitives of the ALU (41_arithmetic.md R150 to R153), the handlers of the arithmetic, compare, shift
and rotate instructions as functions of bytes and P, and the branch predicates (R241 to R248). -/

namespace Sys2Proof.Machine

/-- R150: carry from the untruncated result. -/
def carryOf (raw : Nat) : Bool := decide (raw > 0xFF)

/-- R151: the zero primitive. -/
def zeroOf (r : Byte) : Bool := r == 0x00#8

/-- R153: the negative primitive. -/
def negativeOf (r : Byte) : Bool := r.getLsbD 7

/-- R152: overflow of an addition. -/
def overflowAdd (a m r : Byte) : Bool := (~~~(a ^^^ m) &&& (a ^^^ r) &&& 0x80#8) != 0x00#8

/-- R152: overflow of a subtraction. -/
def overflowSub (a m r : Byte) : Bool := ((a ^^^ m) &&& (a ^^^ r) &&& 0x80#8) != 0x00#8

/-- R10: SetNZ. -/
def Status.setNZ (p : Status) (r : Byte) : Status := { p with n := negativeOf r, z := zeroOf r }

/-- R155: the untruncated sum A + M + C. -/
def addRaw (a m : Byte) (c : Bool) : Nat := a.toNat + m.toNat + c.toNat

/-- R150: the untruncated result of a subtraction or compare, R + (M XOR 0xFF) + cin. -/
def subRaw (r m : Byte) (cin : Bool) : Nat := r.toNat + (m ^^^ 0xFF#8).toNat + cin.toNat

/-- R155: the sum and the flags of ADC; D is not read (R167). -/
def addWithCarry (a m : Byte) (p : Status) : Byte × Status :=
  let raw := addRaw a m p.c
  let r := BitVec.ofNat 8 raw
  (r, { p with c := carryOf raw, v := overflowAdd a m r }.setNZ r)

/-- R156: the difference and the flags of SBC; D is not read (R167). -/
def subtractWithBorrow (a m : Byte) (p : Status) : Byte × Status :=
  let raw := subRaw a m p.c
  let r := BitVec.ofNat 8 raw
  (r, { p with c := carryOf raw, v := overflowSub a m r }.setNZ r)

/-- R157 to R159: the flags of a compare of a register with M. -/
def compareFlags (r m : Byte) (p : Status) : Status :=
  { p with c := carryOf (subRaw r m true) }.setNZ (BitVec.ofNat 8 (subRaw r m true))

/-- R183: the flags of BIT. -/
def bitFlags (a m : Byte) (p : Status) : Status :=
  { p with z := zeroOf (a &&& m), n := m.getLsbD 7, v := m.getLsbD 6 }

/-- R160, R162, R163. -/
def increment (v : Byte) (p : Status) : Byte × Status := (v + 1#8, p.setNZ (v + 1#8))

/-- R161, R164, R165. -/
def decrement (v : Byte) (p : Status) : Byte × Status := (v - 1#8, p.setNZ (v - 1#8))

/-- R190. -/
def shiftLeft (v : Byte) (p : Status) : Byte × Status :=
  let raw := v.toNat <<< 1
  let r := BitVec.ofNat 8 raw
  (r, { p with c := carryOf raw }.setNZ r)

/-- R191. -/
def shiftRight (v : Byte) (p : Status) : Byte × Status :=
  let r := v >>> 1
  (r, { p with c := v.getLsbD 0 }.setNZ r)

/-- R192. -/
def rotateLeft (v : Byte) (p : Status) : Byte × Status :=
  let raw := (v.toNat <<< 1) ||| p.c.toNat
  let r := BitVec.ofNat 8 raw
  (r, { p with c := carryOf raw }.setNZ r)

/-- R193. -/
def rotateRight (v : Byte) (p : Status) : Byte × Status :=
  let r := (v >>> 1) ||| (BitVec.ofNat 8 p.c.toNat <<< 7)
  (r, { p with c := v.getLsbD 0 }.setNZ r)

/-- R241 -/
def plusCond (p : Status) : Bool := !p.n

/-- R242 -/
def minusCond (p : Status) : Bool := p.n

/-- R243 -/
def overflowClearCond (p : Status) : Bool := !p.v

/-- R244 -/
def overflowSetCond (p : Status) : Bool := p.v

/-- R245 -/
def carryClearCond (p : Status) : Bool := !p.c

/-- R246 -/
def carrySetCond (p : Status) : Bool := p.c

/-- R247 -/
def notEqualCond (p : Status) : Bool := !p.z

/-- R248 -/
def equalCond (p : Status) : Bool := p.z

end Sys2Proof.Machine
end

