-- ==== Sys2Proof/Machine/Operands.lean ====
section
/-! DEFINITION. The operand forms: the effective address of every memory mode, the operand of the read class, the
read-modify-write template, the jump target and the branch (40_addressing_modes.md R120 to R139). A formula that reads a
parameter of R6 takes it as its first argument. -/

namespace Sys2Proof.Machine

/-- R125, R126: a zero-page address plus an index, wrapping in page zero or carrying into page one. -/
def zpIndexed (zpWrap : Bool) (b i : Byte) : Addr :=
  if zpWrap then zext16 (b + i) else zext16 b + zext16 i

/-- R132, R133: the pointer held at a zero-page address; its high byte is read from the next address, wrapping in page zero
or carrying into page one. -/
def zpPointer (zpWrap : Bool) (s : State) (p : Byte) : Addr :=
  le16 (s.read (zext16 p)) (s.read (if zpWrap then zext16 (p + 1#8) else zext16 p + 1#16))

/-- R129, R130, R133: the address an index is added to with a 16-bit carry, and the index; none for the other modes. -/
def indexBase (zpWrap : Bool) (m : MemMode) (s : State) : Option (Addr × Byte) :=
  match m with
  | .absx w => some (w, s.x)
  | .absy w => some (w, s.y)
  | .indy b => some (zpPointer zpWrap s b, s.y)
  | .zp _ | .zpx _ | .zpy _ | .abs _ | .indx _ => none

/-- R124 to R126, R128 to R130, R132, R133: EffAddr, for a value of ZP_WRAP. -/
def effAddrWith (zpWrap : Bool) (m : MemMode) (s : State) : Addr :=
  match m with
  | .zp b => zext16 b
  | .zpx b => zpIndexed zpWrap b s.x
  | .zpy b => zpIndexed zpWrap b s.y
  | .abs w => w
  | .absx w => w + zext16 s.x
  | .absy w => w + zext16 s.y
  | .indx b => zpPointer zpWrap s (b + s.x)
  | .indy b => zpPointer zpWrap s b + zext16 s.y

/-- EffAddr at the model's ZP_WRAP. -/
def effAddr (m : MemMode) (s : State) : Addr := effAddrWith Config.zpWrap m s

/-- R123, R134: Operand, the byte a read-class instruction receives. -/
def State.operand (s : State) (m : ReadOperand) : Byte :=
  match m with
  | .imm b => b
  | .mem mm => s.read (effAddr mm s)

/-- R131: the target of JMP's indirect form, for a value of JMP_IND_PAGE_BUG. -/
def indirectTarget (pageBug : Bool) (s : State) (ptr : Addr) : Addr :=
  le16 (s.read ptr)
    (s.read (if pageBug then (ptr &&& 0xFF00#16) ||| zext16 (loByte ptr + 1#8) else ptr + 1#16))

/-- R249: the effective address of JMP (R128, R131). -/
def jumpTarget (m : JumpOperand) (s : State) : Addr :=
  match m with
  | .abs w => w
  | .ind w => indirectTarget Config.jmpIndPageBug s w

/-- R134, R136, the RMW class and the ACC form: the handler maps the operand byte and P to the new byte and P, and the only
write is at the address that was read. -/
def State.modify (s : State) (m : RmwOperand) (f : Byte → Status → Byte × Status) : State :=
  match m with
  | .acc => { s with a := (f s.a s.p).1, p := (f s.a s.p).2 }
  | .mem mm =>
    { s.write (effAddr mm s) (f (s.read (effAddr mm s)) s.p).1 with p := (f (s.read (effAddr mm s)) s.p).2 }

/-- R134, the write class: the byte stored at the effective address. -/
def State.store (s : State) (m : MemMode) (v : Byte) : State := s.write (effAddr m s) v

/-- R127: the address a branch at PC0 = PC goes to when taken. -/
def branchTarget (s : State) (d : Byte) : Addr := s.pc + 2#16 + sext16 d

/-- R240: a branch at PC0 = PC, taken or not. -/
def State.branch (s : State) (taken : Bool) (d : Byte) : State :=
  { s with pc := if taken then branchTarget s d else s.pc + 2#16 }

end Sys2Proof.Machine
end

