-- ==== Sys2Proof/Machine/Arithmetic.lean ====
section
/-! DEFINITION. The arithmetic instructions (41_arithmetic.md). A meaning takes the boundary state with PC = PC0
(R134) and answers the boundary state after the instruction. -/

namespace Sys2Proof.Machine

/-- R155 -/
def execAdc (m : ReadOperand) (s : State) : Host.Outcome State Fault Refusal :=
  let r := addWithCarry s.a (s.operand m) s.p
  .next ({ s with a := r.1, p := r.2 }.advance m.mode.length)

/-- R156 -/
def execSbc (m : ReadOperand) (s : State) : Host.Outcome State Fault Refusal :=
  let r := subtractWithBorrow s.a (s.operand m) s.p
  .next ({ s with a := r.1, p := r.2 }.advance m.mode.length)

/-- R157 -/
def execCmp (m : ReadOperand) (s : State) : Host.Outcome State Fault Refusal :=
  .next ({ s with p := compareFlags s.a (s.operand m) s.p }.advance m.mode.length)

/-- R158 -/
def execCpx (m : ReadOperand) (s : State) : Host.Outcome State Fault Refusal :=
  .next ({ s with p := compareFlags s.x (s.operand m) s.p }.advance m.mode.length)

/-- R159 -/
def execCpy (m : ReadOperand) (s : State) : Host.Outcome State Fault Refusal :=
  .next ({ s with p := compareFlags s.y (s.operand m) s.p }.advance m.mode.length)

/-- R160 -/
def execInc (m : MemMode) (s : State) : Host.Outcome State Fault Refusal :=
  .next ((s.modify (.mem m) increment).advance m.mode.length)

/-- R161 -/
def execDec (m : MemMode) (s : State) : Host.Outcome State Fault Refusal :=
  .next ((s.modify (.mem m) decrement).advance m.mode.length)

/-- R162 -/
def execInx (s : State) : Host.Outcome State Fault Refusal :=
  .next ({ s with x := (increment s.x s.p).1, p := (increment s.x s.p).2 }.advance 1)

/-- R163 -/
def execIny (s : State) : Host.Outcome State Fault Refusal :=
  .next ({ s with y := (increment s.y s.p).1, p := (increment s.y s.p).2 }.advance 1)

/-- R164 -/
def execDex (s : State) : Host.Outcome State Fault Refusal :=
  .next ({ s with x := (decrement s.x s.p).1, p := (decrement s.x s.p).2 }.advance 1)

/-- R165 -/
def execDey (s : State) : Host.Outcome State Fault Refusal :=
  .next ({ s with y := (decrement s.y s.p).1, p := (decrement s.y s.p).2 }.advance 1)

end Sys2Proof.Machine
end

