-- ==== Sys2Proof/Machine/Control.lean ====
section
/-! DEFINITION. The control-flow instructions (46_control_flow.md). A meaning takes the boundary state with PC = PC0
(R134) and answers the boundary state after the instruction. -/

namespace Sys2Proof.Machine

/-- R241 -/
def execBpl (d : Byte) (s : State) : Host.Outcome State Fault Refusal :=
  .next (s.branch (plusCond s.p) d)

/-- R242 -/
def execBmi (d : Byte) (s : State) : Host.Outcome State Fault Refusal :=
  .next (s.branch (minusCond s.p) d)

/-- R243 -/
def execBvc (d : Byte) (s : State) : Host.Outcome State Fault Refusal :=
  .next (s.branch (overflowClearCond s.p) d)

/-- R244 -/
def execBvs (d : Byte) (s : State) : Host.Outcome State Fault Refusal :=
  .next (s.branch (overflowSetCond s.p) d)

/-- R245 -/
def execBcc (d : Byte) (s : State) : Host.Outcome State Fault Refusal :=
  .next (s.branch (carryClearCond s.p) d)

/-- R246 -/
def execBcs (d : Byte) (s : State) : Host.Outcome State Fault Refusal :=
  .next (s.branch (carrySetCond s.p) d)

/-- R247 -/
def execBne (d : Byte) (s : State) : Host.Outcome State Fault Refusal :=
  .next (s.branch (notEqualCond s.p) d)

/-- R248 -/
def execBeq (d : Byte) (s : State) : Host.Outcome State Fault Refusal :=
  .next (s.branch (equalCond s.p) d)

/-- R249 -/
def execJmp (m : JumpOperand) (s : State) : Host.Outcome State Fault Refusal :=
  .next { s with pc := jumpTarget m s }

/-- R250: the pushed value is the address of the last byte of the JSR. -/
def execJsr (w : Addr) (s : State) : Host.Outcome State Fault Refusal :=
  .next { s.push16 (s.pc + 2#16) with pc := w }

/-- R251 -/
def execRts (s : State) : Host.Outcome State Fault Refusal :=
  .next { s.afterPull16 with pc := s.pulled16 + 1#16 }

/-- R252 -/
def execBrk (s : State) : Host.Outcome State Fault Refusal :=
  .next s.takeBreak

/-- R253 -/
def execRti (s : State) : Host.Outcome State Fault Refusal :=
  .next s.returnFromBreak

/-- R254 -/
def execNop (s : State) : Host.Outcome State Fault Refusal :=
  .next (s.advance 1)

end Sys2Proof.Machine
end

