-- ==== Sys2Proof/Machine/FlagOps.lean ====
section
/-! DEFINITION. The flag instructions (47_flag_ops.md). A meaning takes the boundary state with PC = PC0
(R134) and answers the boundary state after the instruction. -/

namespace Sys2Proof.Machine

/-- R270 -/
def execClc (s : State) : Host.Outcome State Fault Refusal :=
  .next ({ s with p := { s.p with c := false } }.advance 1)

/-- R271 -/
def execCld (s : State) : Host.Outcome State Fault Refusal :=
  .next ({ s with p := { s.p with d := false } }.advance 1)

/-- R272 -/
def execCli (s : State) : Host.Outcome State Fault Refusal :=
  .next ({ s with p := { s.p with i := false } }.advance 1)

/-- R273 -/
def execClv (s : State) : Host.Outcome State Fault Refusal :=
  .next ({ s with p := { s.p with v := false } }.advance 1)

/-- R274 -/
def execSec (s : State) : Host.Outcome State Fault Refusal :=
  .next ({ s with p := { s.p with c := true } }.advance 1)

/-- R275 -/
def execSed (s : State) : Host.Outcome State Fault Refusal :=
  .next ({ s with p := { s.p with d := true } }.advance 1)

/-- R276 -/
def execSei (s : State) : Host.Outcome State Fault Refusal :=
  .next ({ s with p := { s.p with i := true } }.advance 1)

end Sys2Proof.Machine
end

