-- ==== Sys2Proof/Machine/LoadStore.lean ====
section
/-! DEFINITION. The load, store and transfer instructions (44_load_store_transfer.md). A meaning takes the boundary state with PC = PC0
(R134) and answers the boundary state after the instruction. -/

namespace Sys2Proof.Machine

/-- R200 -/
def execLda (m : ReadOperand) (s : State) : Host.Outcome State Fault Refusal :=
  .next ({ s with a := s.operand m, p := s.p.setNZ (s.operand m) }.advance m.mode.length)

/-- R201 -/
def execLdx (m : ReadOperand) (s : State) : Host.Outcome State Fault Refusal :=
  .next ({ s with x := s.operand m, p := s.p.setNZ (s.operand m) }.advance m.mode.length)

/-- R202 -/
def execLdy (m : ReadOperand) (s : State) : Host.Outcome State Fault Refusal :=
  .next ({ s with y := s.operand m, p := s.p.setNZ (s.operand m) }.advance m.mode.length)

/-- R203 -/
def execSta (m : MemMode) (s : State) : Host.Outcome State Fault Refusal :=
  .next ((s.store m s.a).advance m.mode.length)

/-- R204 -/
def execStx (m : MemMode) (s : State) : Host.Outcome State Fault Refusal :=
  .next ((s.store m s.x).advance m.mode.length)

/-- R205 -/
def execSty (m : MemMode) (s : State) : Host.Outcome State Fault Refusal :=
  .next ((s.store m s.y).advance m.mode.length)

/-- R206 -/
def execTax (s : State) : Host.Outcome State Fault Refusal :=
  .next ({ s with x := s.a, p := s.p.setNZ s.a }.advance 1)

/-- R207 -/
def execTay (s : State) : Host.Outcome State Fault Refusal :=
  .next ({ s with y := s.a, p := s.p.setNZ s.a }.advance 1)

/-- R208 -/
def execTxa (s : State) : Host.Outcome State Fault Refusal :=
  .next ({ s with a := s.x, p := s.p.setNZ s.x }.advance 1)

/-- R209 -/
def execTya (s : State) : Host.Outcome State Fault Refusal :=
  .next ({ s with a := s.y, p := s.p.setNZ s.y }.advance 1)

/-- R210 -/
def execTsx (s : State) : Host.Outcome State Fault Refusal :=
  .next ({ s with x := s.sp, p := s.p.setNZ s.sp }.advance 1)

/-- R211: no flag is written. -/
def execTxs (s : State) : Host.Outcome State Fault Refusal :=
  .next ({ s with sp := s.x }.advance 1)

end Sys2Proof.Machine
end

