-- ==== Sys2Proof/Machine/Logic.lean ====
section
/-! DEFINITION. The logic instructions (42_logic.md). A meaning takes the boundary state with PC = PC0
(R134) and answers the boundary state after the instruction. -/

namespace Sys2Proof.Machine

/-- R180 -/
def execAnd (m : ReadOperand) (s : State) : Host.Outcome State Fault Refusal :=
  let r := s.a &&& s.operand m
  .next ({ s with a := r, p := s.p.setNZ r }.advance m.mode.length)

/-- R181 -/
def execOra (m : ReadOperand) (s : State) : Host.Outcome State Fault Refusal :=
  let r := s.a ||| s.operand m
  .next ({ s with a := r, p := s.p.setNZ r }.advance m.mode.length)

/-- R182 -/
def execEor (m : ReadOperand) (s : State) : Host.Outcome State Fault Refusal :=
  let r := s.a ^^^ s.operand m
  .next ({ s with a := r, p := s.p.setNZ r }.advance m.mode.length)

/-- R183 -/
def execBit (m : MemMode) (s : State) : Host.Outcome State Fault Refusal :=
  .next ({ s with p := bitFlags s.a (s.read (effAddr m s)) s.p }.advance m.mode.length)

end Sys2Proof.Machine
end

