-- ==== Sys2Proof/Machine/Shift.lean ====
section
/-! DEFINITION. The shift and rotate instructions (43_shift_rotate.md). A meaning takes the boundary state with PC = PC0
(R134) and answers the boundary state after the instruction. -/

namespace Sys2Proof.Machine

/-- R190 -/
def execAsl (m : RmwOperand) (s : State) : Host.Outcome State Fault Refusal :=
  .next ((s.modify m shiftLeft).advance m.mode.length)

/-- R191 -/
def execLsr (m : RmwOperand) (s : State) : Host.Outcome State Fault Refusal :=
  .next ((s.modify m shiftRight).advance m.mode.length)

/-- R192 -/
def execRol (m : RmwOperand) (s : State) : Host.Outcome State Fault Refusal :=
  .next ((s.modify m rotateLeft).advance m.mode.length)

/-- R193 -/
def execRor (m : RmwOperand) (s : State) : Host.Outcome State Fault Refusal :=
  .next ((s.modify m rotateRight).advance m.mode.length)

end Sys2Proof.Machine
end

