-- ==== Sys2Proof/Machine/Stack.lean ====
section
/-! DEFINITION. The stack instructions (45_stack.md). A meaning takes the boundary state with PC = PC0
(R134) and answers the boundary state after the instruction. -/

namespace Sys2Proof.Machine

/-- R230 -/
def execPha (s : State) : Host.Outcome State Fault Refusal :=
  .next ((s.push s.a).advance 1)

/-- R231 -/
def execPhp (s : State) : Host.Outcome State Fault Refusal :=
  .next ((s.push (s.p.image true)).advance 1)

/-- R232 -/
def execPla (s : State) : Host.Outcome State Fault Refusal :=
  .next ({ s.afterPull with a := s.pulled, p := s.p.setNZ s.pulled }.advance 1)

/-- R233 -/
def execPlp (s : State) : Host.Outcome State Fault Refusal :=
  .next ({ s.afterPull with p := Status.ofByte s.pulled }.advance 1)

end Sys2Proof.Machine
end

