-- ==== Sys2Proof/Machine/Undocumented.lean ====
section
/-! DEFINITION. The undocumented opcode bytes (30_encoding.md R104, R105). A meaning takes the boundary state with PC = PC0
(R134) and answers the boundary state after the instruction. -/

namespace Sys2Proof.Machine

/-- R105: the spec refuses the byte; nothing is saved, no register changes and there is no vector. -/
def execUndocumented (op : Byte) (s : State) : Host.Outcome State Fault Refusal :=
  .refused (.undocumentedOpcode op s.pc)

end Sys2Proof.Machine
end

