-- ==== Sys2Proof/Machine/Timing.lean ====
section
/-! DEFINITION. The cycle counts of 70_reset_and_hazards.md R337 and the page-cross condition of R138. They decide over how
many steps an instruction is spread and nothing else (R338). -/

namespace Sys2Proof.Machine

/-- R337: the base entry of the cycle table, read by mode; a branch not taken is its base. -/
def baseCycles (mn : Mnemonic) (mode : Mode) : Nat :=
  match mode, mn with
  | .imp, .pha | .imp, .php => 3
  | .imp, .pla | .imp, .plp => 4
  | .imp, .rts | .imp, .rti => 6
  | .imp, .brk => 7
  | .imp, _ => 2
  | .acc, _ | .imm, _ | .rel, _ => 2
  | .zp, .inc | .zp, .dec | .zp, .asl | .zp, .lsr | .zp, .rol | .zp, .ror => 5
  | .zp, _ => 3
  | .zpx, .inc | .zpx, .dec | .zpx, .asl | .zpx, .lsr | .zpx, .rol | .zpx, .ror => 6
  | .zpx, _ => 4
  | .zpy, _ => 4
  | .abs, .inc | .abs, .dec | .abs, .asl | .abs, .lsr | .abs, .rol | .abs, .ror => 6
  | .abs, .jmp => 3
  | .abs, .jsr => 6
  | .abs, _ => 4
  | .absx, .inc | .absx, .dec | .absx, .asl | .absx, .lsr | .absx, .rol | .absx, .ror => 7
  | .absx, .sta => 5
  | .absx, _ => 4
  | .absy, .sta => 5
  | .absy, _ => 4
  | .ind, _ => 5
  | .indx, _ => 6
  | .indy, .sta => 6
  | .indy, _ => 5

/-- R138: whether the indexed address lies on another page than the address the index is added to. -/
def pageCrossed (m : MemMode) (s : State) : Bool :=
  match indexBase Config.zpWrap m s with
  | some (base, i) => hiByte (base + zext16 i) != hiByte base
  | none => false

/-- R337: the memory operand of the entries that carry +p: the read class in ABSX, ABSY and INDY. The write and RMW classes
never take it. -/
def penaltyOperand : Instr → Option MemMode
  | .adc (.mem m) | .sbc (.mem m) | .cmp (.mem m) | .cpx (.mem m) | .cpy (.mem m) | .and (.mem m) | .ora (.mem m)
  | .eor (.mem m) | .bit m | .lda (.mem m) | .ldx (.mem m) | .ldy (.mem m) => some m
  | _ => none

/-- R240: whether an instruction is a branch that the flags take. -/
def takenBranch (i : Instr) (p : Status) : Bool :=
  match i with
  | .bpl _ => plusCond p
  | .bmi _ => minusCond p
  | .bvc _ => overflowClearCond p
  | .bvs _ => overflowSetCond p
  | .bcc _ => carryClearCond p
  | .bcs _ => carrySetCond p
  | .bne _ => notEqualCond p
  | .beq _ => equalCond p
  | _ => false

/-- R337: Cycles of an instruction at the boundary state it starts from, for a value of PAGE_CROSS_PENALTY. An undocumented
byte has no entry; the 2 is R332's lower bound and is never used, since such a byte is refused (log entry 9). -/
def cyclesWith (penalty : Bool) (i : Instr) (s : State) : Nat :=
  match i.form with
  | some (mn, mode) =>
    baseCycles mn mode + (takenBranch i s.p).toNat +
      (match penaltyOperand i with
        | some m => (penalty && pageCrossed m s).toNat
        | none => 0)
  | none => 2

/-- R337 at the model's PAGE_CROSS_PENALTY. -/
def cycles (i : Instr) (s : State) : Nat := cyclesWith Config.pageCrossPenalty i s

end Sys2Proof.Machine
end

