-- ==== Sys2Proof/Machine/Engine.lean ====
section
/-! DEFINITION. The step engine of 70_reset_and_hazards.md: the fetch step (R330), the intermediate and final engine steps
(R332, R333), the bytes an instruction is fetched from (R134), and construction with a program image (R340). -/

namespace Sys2Proof.Machine

/-- R134: the instruction whose opcode byte is op, its other bytes read from PC0 + 1 and PC0 + 2 of a boundary state. -/
def instrWithOpcode (op : Byte) (s : State) : Instr := instrOf op (s.read (s.pc + 1#16)) (s.read (s.pc + 2#16))

/-- R134: the instruction a boundary state fetches. -/
def fetchedInstr (s : State) : Instr := instrWithOpcode (s.read s.pc) s

/-- R333: the boundary state a mid-instruction state started at, with PC0 = PC - 1. -/
def startOf (s : State) : State := { s with pc := s.pc - 1#16, ready := true, cycle := 0 }

/-- R333: the instruction in progress. -/
def latchedInstr (s : State) : Instr := instrWithOpcode s.opcode (startOf s)

/-- R334: scratch takes a draw; it is no architectural value. -/
def drawScratch (s : State) : State := { s with scratch := Config.scratchDraw s.draws, draws := s.draws + 1 }

/-- R330: the state after a fetch: the opcode latched, PC moved past it, the engine at cycle 0. -/
def latchFetched (s : State) : State :=
  { s with opcode := s.read s.pc, pc := s.pc + 1#16, ready := false, cycle := 0 }

/-- R330, R105: the fetch step, or the refusal of the byte before any effect. -/
def fetchStep (s : State) : Host.Outcome State Fault Refusal :=
  if admitsOpcode Config.admittedSet (s.read s.pc) then
    .next (latchFetched s)
  else .refused (.undocumentedOpcode (s.read s.pc) s.pc)

/-- R332: an intermediate cycle. -/
def intermediateStep (s : State) : State := { drawScratch s with cycle := s.cycle + 1 }

/-- R333: after the final cycle the machine is ready and the counter zeroed. -/
def commit (t : State) : State := { drawScratch t with ready := true, cycle := 0 }

/-- R333: the final cycle: the whole instruction takes effect at once. -/
def finalStep (s : State) : Host.Outcome State Fault Refusal :=
  match exec (latchedInstr s) (startOf s) with
  | .next t => .next (commit t)
  | .fault r => .fault r
  | .refused r => .refused r

/-- R332: the engine step: intermediate below n - 2, final at n - 2. Past n - 2, and on a latch that no fetch step leaves, the
rule has no case and the machine stops (log entry 5). -/
def engineStep (s : State) : Host.Outcome State Fault Refusal :=
  if admitsOpcode Config.admittedSet s.opcode then
    if s.cycle + 2 < cycles (latchedInstr s) (startOf s) then .next (intermediateStep s)
    else if s.cycle + 2 = cycles (latchedInstr s) (startOf s) then finalStep s
    else .fault (.cyclePastFinal s.opcode s.cycle)
  else .refused (.undocumentedOpcode s.opcode (s.pc - 1#16))

/-- R340, R68, R301: Construct: the image loaded at 0x8000 over the drawn storage, then the registers, then PC; refused when
the image does not fit. -/
def construct (regs : Config.ResetRegs) (source : Config.PcSource) (image : List Byte) :
    Host.Outcome State Fault Refusal :=
  if Config.loadOrigin.toNat + image.length > 0x10000 then
    .refused (.loadOutOfRange Config.loadOrigin image.length)
  else
    let mem := loadBytes { cells := [] } Config.loadOrigin image
    .next (State.constructed regs
      (match source with
        | .fixed a => a
        | .vector => le16 (mem.get (busIndex 0xFFFC#16)) (mem.get (busIndex 0xFFFD#16)))
      mem)

/-- The bytes of a table word stored from an address upward. -/
def State.writeBytes (s : State) (a : Addr) : List Byte → State
  | [] => s
  | b :: bs => State.writeBytes (s.write a b) (a + 1#16) bs

/-- The boundary state with an instruction's bytes stored where its next fetch reads them. -/
def placeInstr (s : State) (bytes : List Byte) : State :=
  let b := if s.ready then s else startOf s
  b.writeBytes b.pc bytes

/-- A boundary state carried to the final cycle of the instruction it fetches: the state its fetch step and intermediate
steps lead to, less the draws. A state whose fetch step refuses stays as it is. -/
def atFinalCycle (s : State) : State :=
  if admitsOpcode Config.admittedSet (s.read s.pc) then
    { latchFetched s with cycle := cycles (fetchedInstr s) s - 2 }
  else s

end Sys2Proof.Machine
end

