-- ==== Sys2Proof/Machine/Step.lean ====
section
/-! DEFINITION. One step is one cycle (70_reset_and_hazards.md R330 to R333): a fetch step at an instruction boundary, an engine
step otherwise. -/

namespace Sys2Proof.Machine

/-- R330, R332: the driver's step call. -/
def step (s : State) : Host.Outcome State Fault Refusal :=
  if s.ready then fetchStep s else engineStep s

/-- The word of an opcode-table row placed where the machine fetches its next instruction, at the cycle in which that
instruction takes effect, so that the very next step runs it whole (log entry 6). A word whose byte the fetch step refuses
is left at the boundary, where the very next step refuses it. -/
def State.withFetchWord (s : State) (nbits w : Nat) : State :=
  atFinalCycle (placeInstr s (tableBytes nbits w))

end Sys2Proof.Machine
end

