-- ==== Sys2Proof/Safety.lean ====
section
/-! DEFINITION. What claims are stated over: the invariant of every state the machine can be in, instruction boundaries
(R331), and runs that end where a driver's STOP predicate holds (D21). -/

namespace Sys2Proof.Machine

/-- R331: an instruction boundary. -/
abbrev State.atBoundary (s : State) : Prop := s.ready = true

/-- R61, R330 to R333: bus storage is in its canonical form; at a boundary the cycle counter is 0; between boundaries the
opcode latch is the byte at PC0, it is admitted, and the counter has not passed the final cycle. -/
abbrev State.Inv (s : State) : Prop :=
  s.mem.wf = true ∧
  (s.ready = true → s.cycle = 0) ∧
  (s.ready = false →
    s.opcode = s.read (s.pc - 1#16) ∧
    admitsOpcode Config.admittedSet s.opcode = true ∧
    s.cycle + 2 ≤ cycles (latchedInstr s) (startOf s))

/-- R92: the 16-bit operand of a memory mode, if it has one. -/
def wordOf : MemMode → Option Addr
  | .abs w | .absx w | .absy w => some w
  | .zp _ | .zpx _ | .zpy _ | .indx _ | .indy _ => none

/-- R92: the 16-bit operand of an instruction (modes ABS, ABSX, ABSY and IND), if it has one. -/
def operandWord : Instr → Option Addr
  | .adc (.mem m) | .sbc (.mem m) | .cmp (.mem m) | .cpx (.mem m) | .cpy (.mem m) | .and (.mem m) | .ora (.mem m)
  | .eor (.mem m) | .lda (.mem m) | .ldx (.mem m) | .ldy (.mem m)
  | .asl (.mem m) | .lsr (.mem m) | .rol (.mem m) | .ror (.mem m)
  | .inc m | .dec m | .bit m | .sta m | .stx m | .sty m => wordOf m
  | .jmp (.abs w) | .jmp (.ind w) | .jsr w => some w
  | _ => none

/-- The mode in which an opcode byte is the given mnemonic, if it is. -/
def modeUnder (mn : Mnemonic) (op : Byte) : Option Mode :=
  match decode8 op with
  | some (m, mode) => if m = mn then some mode else none
  | none => none

/-- A mnemonic has exactly the listed opcode bytes, each in its mode: the Forms line of an instruction rule. -/
def HasForms (mn : Mnemonic) (forms : List (Byte × Mode)) : Prop := ∀ op : Byte, modeUnder mn op = forms.lookup op

/-- A run of k steps that meets no fault and no refusal. -/
def RunsTo (k : Nat) (s t : State) : Prop := Host.Core.run core k s = .next t

/-- D21: a run ends at the first boundary where the driver's STOP predicate holds; the predicate is the claim's own. -/
def StopsAt (stop : State → Prop) (s t : State) : Prop :=
  ∃ k, RunsTo k s t ∧ t.atBoundary ∧ stop t ∧
    ∀ j u, j < k → RunsTo j s u → u.atBoundary → ¬ stop u

/-- Every run from a state ends in no fault, whatever it is refused. -/
def NeverFaults (s : State) : Prop := ∀ k r, Host.Core.run core k s ≠ .fault r

end Sys2Proof.Machine
end

