-- ==== Sys2Proof/Certificates/Slice0/Obligations.lean ====
section
/-! DEFINITION. What is claimed of the machine, by the spec's numbered rules. An equality of states says the frame as well:
every field the right side does not name is unchanged. -/

open Sys2Proof Sys2Proof.Machine

/-! Encoding (30_encoding.md). -/

/-- R90, R92, R97: no bit of a well-formed instruction's encoding is dropped. That an undocumented byte is one byte long is
the model's choice (log entry 9). -/
def Obligations.DecodeOfEncodeIsTheInstruction : Prop :=
  ∀ (i : Instr) (rest : List Byte), i.wellFormed = true → decode (encode i ++ rest) = .ok (i, rest)

/-- R94, R96, R97: what decodes is well-formed and encodes to the bytes it was read from. That an undocumented byte is one
byte long is the model's choice (log entry 9). -/
def Obligations.EncodeOfDecodeIsTheBytes : Prop :=
  ∀ (bytes rest : List Byte) (i : Instr), decode bytes = .ok (i, rest) → i.wellFormed = true ∧ encode i ++ rest = bytes

/-- Words written out from R96 and R92, one or more of each family, read as the instructions they stand for. Two clauses say
the model's own choice: that the undocumented byte 0x80 is one byte long (log entry 9), and the name of the error for a list
that ends inside an instruction (log entry 21). -/
def Obligations.WrittenOutWordsDecode : Prop :=
  decode [0x69#8, 0x01#8] = .ok (.adc (.imm 0x01#8), []) ∧
  decode [0x2C#8, 0x00#8, 0x20#8] = .ok (.bit (.abs 0x2000#16), []) ∧
  decode [0x56#8, 0x10#8] = .ok (.lsr (.mem (.zpx 0x10#8)), []) ∧
  decode [0x0A#8, 0xEA#8] = .ok (.asl .acc, [0xEA#8]) ∧
  decode [0xB1#8, 0x40#8] = .ok (.lda (.mem (.indy 0x40#8)), []) ∧
  decode [0x96#8, 0xFF#8] = .ok (.stx (.zpy 0xFF#8), []) ∧
  decode [0x08#8] = .ok (.php, []) ∧
  decode [0xD0#8, 0xF9#8] = .ok (.bne 0xF9#8, []) ∧
  decode [0x6C#8, 0xFF#8, 0x12#8] = .ok (.jmp (.ind 0x12FF#16), []) ∧
  decode [0x20#8, 0x34#8, 0x12#8] = .ok (.jsr 0x1234#16, []) ∧
  decode [0x00#8, 0xFF#8] = .ok (.brk, [0xFF#8]) ∧
  decode [0xF8#8] = .ok (.sed, []) ∧
  decode [0x80#8, 0x00#8] = .ok (.undocumented 0x80#8, [0x00#8]) ∧
  decode [0xAD#8, 0x00#8] = .error (.truncated 0xAD#8)

/-- R94: every byte has an entry, 151 of them name an instruction, and the other 105 are undocumented. -/
def Obligations.TableNames151InstructionsAnd105Bytes : Prop :=
  ((List.range 256).filter fun n => (decode8 (BitVec.ofNat 8 n)).isSome).length = 151 ∧
  ((List.range 256).filter fun n => (decode8 (BitVec.ofNat 8 n)).isNone).length = 105 ∧
  (∀ op b1 b2 : Byte, ∃ i rest, decode [op, b1, b2] = .ok (i, rest) ∧
    (i.documented = true ↔ (decode8 op).isSome = true))

/-- R70, R92: the byte order of the operands of every opcode of the modes ABS, ABSX, ABSY and IND, of the pointers of
INDX, INDY and IND (R131 to R133; their high byte's address is the parameters' D14 and D15, at both values, log entry 7),
and of the break and reset vectors (R252, R340; that construction may read the latter is D9, log entry 2). -/
def Obligations.MultiByteQuantitiesAreLittleEndian : Prop :=
  (∀ lo hi : Byte, (le16 lo hi).toNat = lo.toNat + 256 * hi.toNat) ∧
  (∀ (op lo hi : Byte) (mn : Mnemonic) (mode : Mode), decode8 op = some (mn, mode) →
    mode ∈ [.abs, .absx, .absy, .ind] → operandWord (instrOf op lo hi) = some (le16 lo hi)) ∧
  (∀ (s : State) (a : Addr), (s.read16 a).toNat = (s.read a).toNat + 256 * (s.read (a + 1#16)).toNat) ∧
  (∀ (s : State) (b : Byte),
    (zpPointer true s b).toNat =
      (s.read (BitVec.ofNat 16 b.toNat)).toNat + 256 * (s.read (BitVec.ofNat 16 ((b.toNat + 1) % 256))).toNat ∧
    (zpPointer false s b).toNat =
      (s.read (BitVec.ofNat 16 b.toNat)).toNat + 256 * (s.read (BitVec.ofNat 16 (b.toNat + 1))).toNat) ∧
  (∀ (s : State) (w : Addr),
    (indirectTarget true s w).toNat = (s.read w).toNat +
      256 * (s.read (BitVec.ofNat 16 (256 * (w.toNat / 256) + (w.toNat % 256 + 1) % 256))).toNat ∧
    (indirectTarget false s w).toNat = (s.read w).toNat + 256 * (s.read (w + 1#16)).toNat) ∧
  (∀ s : State, s.takeBreak.pc.toNat = (s.read 0xFFFE#16).toNat + 256 * (s.read 0xFFFF#16).toNat) ∧
  ∀ (regs : Config.ResetRegs) (image : List Byte) (s : State), construct regs .vector image = .next s →
    s.pc.toNat = (s.read 0xFFFC#16).toNat + 256 * (s.read 0xFFFD#16).toNat

/-! Memory (20_memory.md). -/

/-- R62: the address decode, region by region, for every RAM_MASK and at the default one (0x07FF, the table's modulus), and
MemRead and MemWrite through it. -/
def Obligations.AddressDecodeMirrorsRamAndPpu : Prop :=
  (∀ mask a : Addr, a.toNat ≤ 0x1FFF → storageIndex mask a = (a &&& mask).toNat) ∧
  (∀ mask a : Addr, 0x2000 ≤ a.toNat → storageIndex mask a = busIndex a) ∧
  (∀ a : Addr, a.toNat ≤ 0x1FFF → busIndex a = a.toNat % 0x800) ∧
  (∀ a : Addr, 0x2000 ≤ a.toNat → a.toNat ≤ 0x3FFF → busIndex a = 0x2000 + a.toNat % 8) ∧
  (∀ a : Addr, 0x4000 ≤ a.toNat → busIndex a = a.toNat) ∧
  (∀ (s : State) (a : Addr) (v : Byte),
    s.write a v = { s with mem := (s.write a v).mem } ∧
    ∀ b : Addr, (s.write a v).read b = if busIndex b = busIndex a then v else s.read b)

/-- R65: which addresses of the PPU window are one byte of storage, and what a write through one of them does to the
others. -/
def Obligations.PpuRegistersAliasEveryEighthAddress : Prop :=
  ∀ (a b : Addr), 0x2000 ≤ a.toNat → a.toNat ≤ 0x3FFF → 0x2000 ≤ b.toNat → b.toNat ≤ 0x3FFF →
    (busIndex a = busIndex b ↔ a.toNat % 8 = b.toNat % 8) ∧
    ∀ (s : State) (v : Byte), a.toNat % 8 = b.toNat % 8 → (s.write a v).read b = v ∧ s.read a = s.read b

/-- R64 (the spec's own derivation from R62; the mask is its decision D5, log entry 7): RAM mirrors under RAM_MASK =
0x07FF, and what the other mask, 0x08FF, does instead. -/
def Obligations.RamMirrorsUnderEitherMask : Prop :=
  (∀ a b : Addr, a.toNat ≤ 0x1FFF → b.toNat ≤ 0x1FFF → (busIndex a = busIndex b ↔ a.toNat % 0x800 = b.toNat % 0x800)) ∧
  (∀ a : Addr, a.toNat ≤ 0x1FFF →
    storageIndex 0x08FF#16 a ≤ 0xFF ∨ (0x800 ≤ storageIndex 0x08FF#16 a ∧ storageIndex 0x08FF#16 a ≤ 0x8FF)) ∧
  (∀ b : Byte, storageIndex 0x08FF#16 (stackAddr b) = storageIndex 0x08FF#16 (zext16 b))

/-- R66: the program region is writable, and a fetch sees the stored byte. -/
def Obligations.RomRegionIsWritableAndFetched : Prop :=
  ∀ (s : State) (a : Addr) (v : Byte), 0x8000 ≤ a.toNat →
    (s.write a v).read a = v ∧
    (s.ready = true → admitsOpcode Config.admittedSet v = true →
      ∃ t, step { s.write a v with pc := a } = .next t ∧ t.opcode = v)

/-- R34: a stack pointer designates the byte 0x0100 | SP, one byte for each value. That it lies in page one of storage is R62
at RAM_MASK = 0x07FF (the spec's decision D5, log entry 7); RamMirrorsUnderEitherMask says what 0x08FF does. -/
def Obligations.StackPointerDesignatesPageOne : Prop :=
  ∀ sp : Byte, (stackAddr sp).toNat = 0x100 + sp.toNat ∧ busIndex (stackAddr sp) = 0x100 + sp.toNat

/-- R123 to R126, R128 to R130, R132 to R134 (zero-page wraps are the spec's decision D14, log entry 7): the effective
address of every memory mode, in numbers, and the operand of the read class. -/
def Obligations.EffectiveAddressOfEveryMode : Prop :=
  ∀ (s : State) (b : Byte) (w : Addr),
    (effAddr (.zp b) s).toNat = b.toNat ∧
    (effAddr (.zpx b) s).toNat = (b.toNat + s.x.toNat) % 256 ∧
    (effAddr (.zpy b) s).toNat = (b.toNat + s.y.toNat) % 256 ∧
    effAddr (.abs w) s = w ∧
    (effAddr (.absx w) s).toNat = (w.toNat + s.x.toNat) % 65536 ∧
    (effAddr (.absy w) s).toNat = (w.toNat + s.y.toNat) % 65536 ∧
    (effAddr (.indx b) s).toNat =
      (s.read (BitVec.ofNat 16 ((b.toNat + s.x.toNat) % 256))).toNat +
        256 * (s.read (BitVec.ofNat 16 ((b.toNat + s.x.toNat + 1) % 256))).toNat ∧
    (effAddr (.indy b) s).toNat =
      ((s.read (BitVec.ofNat 16 b.toNat)).toNat + 256 * (s.read (BitVec.ofNat 16 ((b.toNat + 1) % 256))).toNat +
        s.y.toNat) % 65536 ∧
    s.operand (.imm b) = b ∧
    ∀ m : MemMode, s.operand (.mem m) = s.read (effAddr m s)

/-! Arithmetic and logic (41_arithmetic.md, 42_logic.md). -/

/-- R155: ADC, for every operand form, with its forms; D plays no part. -/
def Obligations.AdcAddsWithCarry : Prop :=
  HasForms .adc [(0x69#8, .imm), (0x65#8, .zp), (0x75#8, .zpx), (0x6D#8, .abs), (0x7D#8, .absx), (0x79#8, .absy),
    (0x61#8, .indx), (0x71#8, .indy)] ∧
  ∀ (m : ReadOperand) (s : State),
    let v := s.operand m
    let sum := s.a.toNat + v.toNat + s.p.c.toNat
    let r : Byte := BitVec.ofNat 8 (sum % 256)
    exec (.adc m) s = .next { s with
      a := r
      p := { s.p with
        n := decide (128 ≤ sum % 256)
        v := decide (s.a.msb = v.msb ∧ r.msb ≠ s.a.msb)
        z := decide (sum % 256 = 0)
        c := decide (255 < sum) }
      pc := s.pc + BitVec.ofNat 16 m.mode.length }

/-- R150, R152, R156 (carry polarity: the spec's decision D4, log entry 16): SBC, for every operand form. -/
def Obligations.SbcSubtractsWithBorrow : Prop :=
  HasForms .sbc [(0xE9#8, .imm), (0xE5#8, .zp), (0xF5#8, .zpx), (0xED#8, .abs), (0xFD#8, .absx), (0xF9#8, .absy),
    (0xE1#8, .indx), (0xF1#8, .indy)] ∧
  ∀ (m : ReadOperand) (s : State),
    let v := s.operand m
    let diff : Int := (s.a.toNat : Int) - v.toNat - (1 - s.p.c.toNat)
    let r : Byte := BitVec.ofInt 8 diff
    exec (.sbc m) s = .next { s with
      a := r
      p := { s.p with
        n := decide (128 ≤ diff % 256)
        v := decide (s.a.msb ≠ v.msb ∧ r.msb ≠ s.a.msb)
        z := decide (diff % 256 = 0)
        c := decide (0 ≤ diff) }
      pc := s.pc + BitVec.ofNat 16 m.mode.length }

/-- An inference from the formulas of R152, R154 and R156: V says that the signed sum or difference does not fit in a
byte. -/
def Obligations.OverflowMeansOutOfSignedRange : Prop :=
  ∀ (m : ReadOperand) (s t : State),
    (exec (.adc m) s = .next t →
      let sum : Int := s.a.toInt + (s.operand m).toInt + s.p.c.toNat
      (t.p.v = true ↔ sum < -128 ∨ 127 < sum)) ∧
    (exec (.sbc m) s = .next t →
      let diff : Int := s.a.toInt - (s.operand m).toInt - (1 - s.p.c.toNat)
      (t.p.v = true ↔ diff < -128 ∨ 127 < diff))

/-- R157 to R159 (carry polarity: the spec's decision D4, log entry 16): the three compares write three flags and no
register. -/
def Obligations.ComparesSetNZCOnly : Prop :=
  HasForms .cmp [(0xC9#8, .imm), (0xC5#8, .zp), (0xD5#8, .zpx), (0xCD#8, .abs), (0xDD#8, .absx), (0xD9#8, .absy),
    (0xC1#8, .indx), (0xD1#8, .indy)] ∧
  HasForms .cpx [(0xE0#8, .imm), (0xE4#8, .zp), (0xEC#8, .abs)] ∧
  HasForms .cpy [(0xC0#8, .imm), (0xC4#8, .zp), (0xCC#8, .abs)] ∧
  ∀ (m : ReadOperand) (s : State), ∀ k ∈ [(Instr.cmp m, s.a), (Instr.cpx m, s.x), (Instr.cpy m, s.y)],
    let v := s.operand m
    exec k.1 s = .next { s with
      p := { s.p with
        n := decide (128 ≤ ((k.2.toNat : Int) - v.toNat) % 256)
        z := decide (k.2 = v)
        c := decide (v.toNat ≤ k.2.toNat) }
      pc := s.pc + BitVec.ofNat 16 m.mode.length }

/-- R161, and R160 but for its remark on the final cycle: INC and DEC write one byte of memory, N and Z; every other address
and register is unchanged. -/
def Obligations.IncAndDecChangeOneByteOfMemory : Prop :=
  HasForms .inc [(0xE6#8, .zp), (0xF6#8, .zpx), (0xEE#8, .abs), (0xFE#8, .absx)] ∧
  HasForms .dec [(0xC6#8, .zp), (0xD6#8, .zpx), (0xCE#8, .abs), (0xDE#8, .absx)] ∧
  ∀ (m : MemMode) (s : State), ∀ k ∈ [(Instr.inc m, 1), (Instr.dec m, 255)],
    let r := ((s.read (effAddr m s)).toNat + k.2) % 256
    ∃ t, exec k.1 s = .next t ∧
      t = { s with
        mem := t.mem
        p := { s.p with n := decide (128 ≤ r), z := decide (r = 0) }
        pc := s.pc + BitVec.ofNat 16 m.mode.length } ∧
      ∀ a : Addr, t.read a = if busIndex a = busIndex (effAddr m s) then BitVec.ofNat 8 r else s.read a

/-- R162 to R165: INX, INY, DEX and DEY. -/
def Obligations.IndexIncrementsAndDecrements : Prop :=
  (HasForms .inx [(0xE8#8, .imp)] ∧ HasForms .iny [(0xC8#8, .imp)] ∧
    HasForms .dex [(0xCA#8, .imp)] ∧ HasForms .dey [(0x88#8, .imp)]) ∧
  ∀ s : State,
    let flags (r : Nat) : Status := { s.p with n := decide (128 ≤ r), z := decide (r = 0) }
    let up (v : Byte) : Nat := (v.toNat + 1) % 256
    let down (v : Byte) : Nat := (v.toNat + 255) % 256
    exec .inx s = .next { s with x := BitVec.ofNat 8 (up s.x), p := flags (up s.x), pc := s.pc + 1#16 } ∧
    exec .iny s = .next { s with y := BitVec.ofNat 8 (up s.y), p := flags (up s.y), pc := s.pc + 1#16 } ∧
    exec .dex s = .next { s with x := BitVec.ofNat 8 (down s.x), p := flags (down s.x), pc := s.pc + 1#16 } ∧
    exec .dey s = .next { s with y := BitVec.ofNat 8 (down s.y), p := flags (down s.y), pc := s.pc + 1#16 }

/-- R180 to R182: AND, ORA and EOR. -/
def Obligations.LogicWritesAccumulatorAndNZ : Prop :=
  HasForms .and [(0x29#8, .imm), (0x25#8, .zp), (0x35#8, .zpx), (0x2D#8, .abs), (0x3D#8, .absx), (0x39#8, .absy),
    (0x21#8, .indx), (0x31#8, .indy)] ∧
  HasForms .ora [(0x09#8, .imm), (0x05#8, .zp), (0x15#8, .zpx), (0x0D#8, .abs), (0x1D#8, .absx), (0x19#8, .absy),
    (0x01#8, .indx), (0x11#8, .indy)] ∧
  HasForms .eor [(0x49#8, .imm), (0x45#8, .zp), (0x55#8, .zpx), (0x4D#8, .abs), (0x5D#8, .absx), (0x59#8, .absy),
    (0x41#8, .indx), (0x51#8, .indy)] ∧
  ∀ (m : ReadOperand) (s : State),
    ∀ k ∈ [(Instr.and m, s.a &&& s.operand m), (Instr.ora m, s.a ||| s.operand m), (Instr.eor m, s.a ^^^ s.operand m)],
    exec k.1 s = .next { s with
      a := k.2
      p := { s.p with n := k.2.msb, z := decide (k.2 = 0#8) }
      pc := s.pc + BitVec.ofNat 16 m.mode.length }

/-- R183: BIT copies bits 7 and 6 of the memory byte, tests A AND M, and writes no register. -/
def Obligations.BitTestsMemoryAgainstAccumulator : Prop :=
  HasForms .bit [(0x24#8, .zp), (0x2C#8, .abs)] ∧
  ∀ (m : MemMode) (s : State),
    let v := s.read (effAddr m s)
    exec (.bit m) s = .next { s with
      p := { s.p with n := decide (128 ≤ v.toNat), v := decide (64 ≤ v.toNat % 128), z := decide (s.a &&& v = 0#8) }
      pc := s.pc + BitVec.ofNat 16 m.mode.length }

/-! Shifts and rotates (43_shift_rotate.md). -/

/-- R192, and R190 but for its example's per-cycle memory: ASL and ROL on the accumulator and on memory. -/
def Obligations.AslAndRolMoveBit7IntoCarry : Prop :=
  HasForms .asl [(0x0A#8, .acc), (0x06#8, .zp), (0x16#8, .zpx), (0x0E#8, .abs), (0x1E#8, .absx)] ∧
  HasForms .rol [(0x2A#8, .acc), (0x26#8, .zp), (0x36#8, .zpx), (0x2E#8, .abs), (0x3E#8, .absx)] ∧
  ∀ (s : State), ∀ k ∈ [(Instr.asl, 0), (Instr.rol, s.p.c.toNat)],
    let raw (v : Byte) : Nat := 2 * v.toNat + k.2
    let flags (v : Byte) : Status :=
      { s.p with n := decide (128 ≤ raw v % 256), z := decide (raw v % 256 = 0), c := decide (128 ≤ v.toNat) }
    exec (k.1 .acc) s = .next { s with
      a := BitVec.ofNat 8 (raw s.a % 256), p := flags s.a, pc := s.pc + 1#16 } ∧
    ∀ m : MemMode, ∃ t, exec (k.1 (.mem m)) s = .next t ∧
      t = { s with
        mem := t.mem, p := flags (s.read (effAddr m s)), pc := s.pc + BitVec.ofNat 16 m.mode.length } ∧
      ∀ a : Addr, t.read a =
        if busIndex a = busIndex (effAddr m s) then BitVec.ofNat 8 (raw (s.read (effAddr m s)) % 256) else s.read a

/-- R191, R193: LSR and ROR on the accumulator and on memory. -/
def Obligations.LsrAndRorMoveBit0IntoCarry : Prop :=
  HasForms .lsr [(0x4A#8, .acc), (0x46#8, .zp), (0x56#8, .zpx), (0x4E#8, .abs), (0x5E#8, .absx)] ∧
  HasForms .ror [(0x6A#8, .acc), (0x66#8, .zp), (0x76#8, .zpx), (0x6E#8, .abs), (0x7E#8, .absx)] ∧
  ∀ (s : State), ∀ k ∈ [(Instr.lsr, 0), (Instr.ror, s.p.c.toNat)],
    let r (v : Byte) : Nat := v.toNat / 2 + 128 * k.2
    let flags (v : Byte) : Status :=
      { s.p with n := decide (128 ≤ r v), z := decide (r v = 0), c := decide (v.toNat % 2 = 1) }
    exec (k.1 .acc) s = .next { s with a := BitVec.ofNat 8 (r s.a), p := flags s.a, pc := s.pc + 1#16 } ∧
    ∀ m : MemMode, ∃ t, exec (k.1 (.mem m)) s = .next t ∧
      t = { s with
        mem := t.mem, p := flags (s.read (effAddr m s)), pc := s.pc + BitVec.ofNat 16 m.mode.length } ∧
      ∀ a : Addr, t.read a =
        if busIndex a = busIndex (effAddr m s) then BitVec.ofNat 8 (r (s.read (effAddr m s))) else s.read a

/-! Loads, stores, transfers and the stack (44_load_store_transfer.md, 45_stack.md). -/

/-- R200 to R202: the loads. R200's example counts 2 cycles for the immediate form. -/
def Obligations.LoadsWriteOneRegisterAndNZ : Prop :=
  HasForms .lda [(0xA9#8, .imm), (0xA5#8, .zp), (0xB5#8, .zpx), (0xAD#8, .abs), (0xBD#8, .absx), (0xB9#8, .absy),
    (0xA1#8, .indx), (0xB1#8, .indy)] ∧
  HasForms .ldx [(0xA2#8, .imm), (0xA6#8, .zp), (0xB6#8, .zpy), (0xAE#8, .abs), (0xBE#8, .absy)] ∧
  HasForms .ldy [(0xA0#8, .imm), (0xA4#8, .zp), (0xB4#8, .zpx), (0xAC#8, .abs), (0xBC#8, .absx)] ∧
  ∀ (m : ReadOperand) (s : State),
    let v := s.operand m
    let p : Status := { s.p with n := decide (128 ≤ v.toNat), z := decide (v.toNat = 0) }
    let pc := s.pc + BitVec.ofNat 16 m.mode.length
    exec (.lda m) s = .next { s with a := v, p := p, pc := pc } ∧
    exec (.ldx m) s = .next { s with x := v, p := p, pc := pc } ∧
    exec (.ldy m) s = .next { s with y := v, p := p, pc := pc } ∧
    ∀ b : Byte, cycles (.lda (.imm b)) s = 2

/-- R203 to R205: the stores write one byte of storage, seen through every mirror, and no flag. -/
def Obligations.StoresWriteOneByteAndNoFlag : Prop :=
  HasForms .sta [(0x85#8, .zp), (0x95#8, .zpx), (0x8D#8, .abs), (0x9D#8, .absx), (0x99#8, .absy), (0x81#8, .indx),
    (0x91#8, .indy)] ∧
  HasForms .stx [(0x86#8, .zp), (0x96#8, .zpy), (0x8E#8, .abs)] ∧
  HasForms .sty [(0x84#8, .zp), (0x94#8, .zpx), (0x8C#8, .abs)] ∧
  ∀ (m : MemMode) (s : State), ∀ k ∈ [(Instr.sta m, s.a), (Instr.stx m, s.x), (Instr.sty m, s.y)],
    ∃ t, exec k.1 s = .next t ∧
      t = { s with mem := t.mem, pc := s.pc + BitVec.ofNat 16 m.mode.length } ∧
      ∀ a : Addr, t.read a = if busIndex a = busIndex (effAddr m s) then k.2 else s.read a

/-- R206 to R211: the transfers; TXS alone writes no flag. -/
def Obligations.TransfersCopyOneRegister : Prop :=
  (HasForms .tax [(0xAA#8, .imp)] ∧ HasForms .tay [(0xA8#8, .imp)] ∧ HasForms .txa [(0x8A#8, .imp)] ∧
    HasForms .tya [(0x98#8, .imp)] ∧ HasForms .tsx [(0xBA#8, .imp)] ∧ HasForms .txs [(0x9A#8, .imp)]) ∧
  ∀ s : State,
    let flags (v : Byte) : Status := { s.p with n := decide (128 ≤ v.toNat), z := decide (v.toNat = 0) }
    exec .tax s = .next { s with x := s.a, p := flags s.a, pc := s.pc + 1#16 } ∧
    exec .tay s = .next { s with y := s.a, p := flags s.a, pc := s.pc + 1#16 } ∧
    exec .txa s = .next { s with a := s.x, p := flags s.x, pc := s.pc + 1#16 } ∧
    exec .tya s = .next { s with a := s.y, p := flags s.y, pc := s.pc + 1#16 } ∧
    exec .tsx s = .next { s with x := s.sp, p := flags s.sp, pc := s.pc + 1#16 } ∧
    exec .txs s = .next { s with sp := s.x, pc := s.pc + 1#16 }

/-- R230, R232: PHA and PLA. -/
def Obligations.PhaStoresAndPlaLoadsTheStackByte : Prop :=
  HasForms .pha [(0x48#8, .imp)] ∧ HasForms .pla [(0x68#8, .imp)] ∧
  ∀ s : State,
    let v := s.read (stackAddr (s.sp + 1#8))
    (∃ t, exec .pha s = .next t ∧
      t = { s with mem := t.mem, sp := s.sp - 1#8, pc := s.pc + 1#16 } ∧
      ∀ a : Addr, t.read a = if busIndex a = busIndex (stackAddr s.sp) then s.a else s.read a) ∧
    exec .pla s = .next { s with
      a := v
      p := { s.p with n := decide (128 ≤ v.toNat), z := decide (v.toNat = 0) }
      sp := s.sp + 1#8
      pc := s.pc + 1#16 }

/-- R231, R233 (the status image and the discarded bits are the spec's decisions D11, D12, log entry 14): PHP and PLP. -/
def Obligations.PhpPushesImageAndPlpRestoresFlags : Prop :=
  HasForms .php [(0x08#8, .imp)] ∧ HasForms .plp [(0x28#8, .imp)] ∧
  ∀ s : State,
    let b := s.read (stackAddr (s.sp + 1#8))
    (∃ t, exec .php s = .next t ∧
      t = { s with mem := t.mem, sp := s.sp - 1#8, pc := s.pc + 1#16 } ∧
      ∀ a : Addr, t.read a = if busIndex a = busIndex (stackAddr s.sp) then s.p.byte ||| 0x30#8 else s.read a) ∧
    exec .plp s = .next { s with
      p := ⟨b.getLsbD 7, b.getLsbD 6, b.getLsbD 3, b.getLsbD 2, b.getLsbD 1, b.getLsbD 0⟩
      sp := s.sp + 1#8
      pc := s.pc + 1#16 }

/-- R39, R40, R42 (bits 5 and 4 are the spec's decisions D10 to D12, log entry 14): P as a byte, as a pushed image, and as
restored from one. -/
def Obligations.StatusByteLayout : Prop :=
  ∀ (p : Status) (b : Bool),
    ((p.image b).toNat = 128 * p.n.toNat + 64 * p.v.toNat + 32 + 16 * b.toNat + 8 * p.d.toNat + 4 * p.i.toNat +
      2 * p.z.toNat + p.c.toNat) ∧
    p.byte = p.image false ∧ p.image true = p.byte ||| 0x30#8 ∧ Status.ofByte (p.image b) = p

/-! Control flow and the trap (46_control_flow.md, 60_exceptions.md). -/

/-- R241 to R248 for the forms and predicates, R240 and R127 for the target, the frame and the cycle counts (2 and 3 are the
spec's own derivation in R240, log entry 16): the eight branches. -/
def Obligations.BranchesGoToTargetOrNext : Prop :=
  (HasForms .bpl [(0x10#8, .rel)] ∧ HasForms .bmi [(0x30#8, .rel)] ∧ HasForms .bvc [(0x50#8, .rel)] ∧
    HasForms .bvs [(0x70#8, .rel)] ∧ HasForms .bcc [(0x90#8, .rel)] ∧ HasForms .bcs [(0xB0#8, .rel)] ∧
    HasForms .bne [(0xD0#8, .rel)] ∧ HasForms .beq [(0xF0#8, .rel)]) ∧
  ∀ (d : Byte) (s : State),
    ∀ k ∈ [(Instr.bpl d, s.p.n == false), (Instr.bmi d, s.p.n == true), (Instr.bvc d, s.p.v == false),
      (Instr.bvs d, s.p.v == true), (Instr.bcc d, s.p.c == false), (Instr.bcs d, s.p.c == true),
      (Instr.bne d, s.p.z == false), (Instr.beq d, s.p.z == true)],
    exec k.1 s = .next { s with
      pc := BitVec.ofInt 16 (s.pc.toNat + 2 + if k.2 = true then d.toInt else 0) } ∧
    cycles k.1 s = if k.2 = true then 3 else 2

/-- R249, R128, R131 (the page wrap of the indirect form is the spec's decision D15, log entry 7): JMP. -/
def Obligations.JmpGoesToItsTarget : Prop :=
  HasForms .jmp [(0x4C#8, .abs), (0x6C#8, .ind)] ∧
  ∀ (w : Addr) (s : State),
    exec (.jmp (.abs w)) s = .next { s with pc := w } ∧
    exec (.jmp (.ind w)) s = .next { s with
      pc := BitVec.ofNat 16 ((s.read w).toNat +
        256 * (s.read (BitVec.ofNat 16 (256 * (w.toNat / 256) + (w.toNat % 256 + 1) % 256))).toNat) }

/-- R250: JSR pushes PC0 + 2, high byte first, and goes to its operand in 6 cycles. -/
def Obligations.JsrPushesLastByteAddress : Prop :=
  HasForms .jsr [(0x20#8, .abs)] ∧
  ∀ (w : Addr) (s : State),
    let ret := (s.pc.toNat + 2) % 65536
    cycles (.jsr w) s = 6 ∧
    ∃ t, exec (.jsr w) s = .next t ∧
      t = { s with mem := t.mem, sp := s.sp - 2#8, pc := w } ∧
      ∀ a : Addr, t.read a =
        if busIndex a = busIndex (stackAddr s.sp) then BitVec.ofNat 8 (ret / 256)
        else if busIndex a = busIndex (stackAddr (s.sp - 1#8)) then BitVec.ofNat 8 (ret % 256)
        else s.read a

/-- R251: RTS pulls low byte then high byte and goes to the next address, in 6 cycles. -/
def Obligations.RtsReturnsPastPulledAddress : Prop :=
  HasForms .rts [(0x60#8, .imp)] ∧
  ∀ s : State,
    let lo := s.read (stackAddr (s.sp + 1#8))
    let hi := s.read (stackAddr (s.sp + 2#8))
    exec .rts s = .next { s with sp := s.sp + 2#8, pc := BitVec.ofNat 16 (256 * hi.toNat + lo.toNat + 1) } ∧
    cycles .rts s = 6

/-- R42, R252, R305 (the status image is the spec's decision D11, log entry 14; return address, push order and I are its
D13, log entry 15): what taking the break trap saves and where it goes, in 7 cycles; the pushes do not reach the vector.
-/
def Obligations.BrkSavesStateAndTakesVector : Prop :=
  HasForms .brk [(0x00#8, .imp)] ∧
  ∀ s : State,
    let ret := (s.pc.toNat + 2) % 65536
    cycles .brk s = 7 ∧
    ∃ t, exec .brk s = .next t ∧
      t = { s with mem := t.mem, sp := s.sp - 3#8, p := { s.p with i := true }, pc := t.pc } ∧
      t.pc.toNat = (s.read 0xFFFE#16).toNat + 256 * (s.read 0xFFFF#16).toNat ∧
      ∀ a : Addr, t.read a =
        if busIndex a = busIndex (stackAddr s.sp) then BitVec.ofNat 8 (ret / 256)
        else if busIndex a = busIndex (stackAddr (s.sp - 1#8)) then BitVec.ofNat 8 (ret % 256)
        else if busIndex a = busIndex (stackAddr (s.sp - 2#8)) then s.p.byte ||| 0x30#8
        else s.read a

/-- R253, R306 (the discarded bits are the spec's decision D12, log entries 14 and 15): RTI, in 6 cycles. -/
def Obligations.RtiRestoresFlagsAndAddress : Prop :=
  HasForms .rti [(0x40#8, .imp)] ∧
  ∀ s : State,
    let b := s.read (stackAddr (s.sp + 1#8))
    let lo := s.read (stackAddr (s.sp + 2#8))
    let hi := s.read (stackAddr (s.sp + 3#8))
    exec .rti s = .next { s with
      p := ⟨b.getLsbD 7, b.getLsbD 6, b.getLsbD 3, b.getLsbD 2, b.getLsbD 1, b.getLsbD 0⟩
      sp := s.sp + 3#8
      pc := BitVec.ofNat 16 (256 * hi.toNat + lo.toNat) } ∧
    cycles .rti s = 6

/-- A subroutine or a trap that returns at once gives back every register, and only the stack bytes keep a trace: RTS
after JSR by R250 and R251, RTI after BRK by R252, R253 and R306 (the pushed image, the discarded bits and BRK's return
address and push order are the spec's decisions D11 to D13, log entries 14 and 15). -/
def Obligations.ReturnsUndoCallsAndTraps : Prop :=
  ∀ (s t : State) (w : Addr),
    (exec (.jsr w) s = .next t →
      ∃ u, exec .rts t = .next u ∧ u = { s with mem := t.mem, pc := s.pc + 3#16 }) ∧
    (exec .brk s = .next t →
      ∃ u, exec .rti t = .next u ∧ u = { s with mem := t.mem, pc := s.pc + 2#16 })

/-- A pull right after a push gives back what was pushed, from every stack pointer: PLA after PHA by R35, R36, R230 and
R232, PLP after PHP by R35, R36, R42, R231 and R233 (the pushed image and the discarded bits are the spec's decisions D11
and D12, log entry 14). -/
def Obligations.PullsUndoPushes : Prop :=
  ∀ (s t : State),
    (exec .pha s = .next t → ∃ u, exec .pla t = .next u ∧ u.a = s.a ∧ u.sp = s.sp ∧ u.mem = t.mem) ∧
    (exec .php s = .next t → ∃ u, exec .plp t = .next u ∧ u.p = s.p ∧ u.sp = s.sp ∧ u.mem = t.mem)

/-- R254: NOP moves PC and nothing else, in 2 cycles. -/
def Obligations.NopOnlyAdvances : Prop :=
  HasForms .nop [(0xEA#8, .imp)] ∧
  ∀ s : State, exec .nop s = .next { s with pc := BitVec.ofNat 16 (s.pc.toNat + 1) } ∧ cycles .nop s = 2

/-- R270 to R276: each flag instruction writes one flag and PC (that SED changes no arithmetic is the spec's decision D3, and
DecimalAndInterruptFlagsAreNotRead). -/
def Obligations.FlagInstructionsWriteOneFlag : Prop :=
  (HasForms .clc [(0x18#8, .imp)] ∧ HasForms .cld [(0xD8#8, .imp)] ∧ HasForms .cli [(0x58#8, .imp)] ∧
    HasForms .clv [(0xB8#8, .imp)] ∧ HasForms .sec [(0x38#8, .imp)] ∧ HasForms .sed [(0xF8#8, .imp)] ∧
    HasForms .sei [(0x78#8, .imp)]) ∧
  ∀ s : State, ∀ k ∈ [(Instr.clc, { s.p with c := false }), (Instr.cld, { s.p with d := false }),
      (Instr.cli, { s.p with i := false }), (Instr.clv, { s.p with v := false }), (Instr.sec, { s.p with c := true }),
      (Instr.sed, { s.p with d := true }), (Instr.sei, { s.p with i := true })],
    exec k.1 s = .next { s with p := k.2, pc := s.pc + 1#16 } ∧ cycles k.1 s = 2

/-- R104, R105, R301 (refusing is the spec's decision D2, log entry 9): the undocumented bytes are refused, by exec and by
the fetch step. -/
def Obligations.UndocumentedBytesAreRefused : Prop :=
  (∀ (op : Byte) (s : State), exec (.undocumented op) s = .refused (.undocumentedOpcode op s.pc)) ∧
  (∀ op : Byte, decode8 op = none ↔ op.toNat ∈ undocumentedBytes) ∧
  (∀ s : State, s.ready = true → decode8 (s.read s.pc) = none →
    step s = .refused (.undocumentedOpcode (s.read s.pc) s.pc))

/-! Rules over all instructions. -/

/-- R137: every instruction that does not transfer control ends with PC = PC0 + length. -/
def Obligations.SequentialInstructionsEndAtNext : Prop :=
  ∀ (i : Instr) (mn : Mnemonic) (mode : Mode) (s t : State), i.form = some (mn, mode) → exec i s = .next t →
    mn ∉ [.jmp, .jsr, .rts, .brk, .rti] → takenBranch i s.p = false → t.pc = s.pc + BitVec.ofNat 16 mode.length

/-- R72, R135 (the spec's own derivation): only these mnemonics write memory. -/
def Obligations.OnlyStoresAndPushesWriteMemory : Prop :=
  ∀ (i : Instr) (mn : Mnemonic) (mode : Mode) (s t : State), i.form = some (mn, mode) → exec i s = .next t →
    mn ∉ [.sta, .stx, .sty, .inc, .dec, .asl, .lsr, .rol, .ror, .pha, .php, .jsr, .brk] ∨ mode = .acc →
    t.mem = s.mem

/-- R34, R35: SP is written by these mnemonics only. What the pushes write lies in page one of storage by R62 at
RAM_MASK = 0x07FF (the spec's decision D5, log entry 7). -/
def Obligations.StackWritesStayInPageOne : Prop :=
  ∀ (i : Instr) (mn : Mnemonic) (mode : Mode) (s t : State), i.form = some (mn, mode) → exec i s = .next t →
    (t.sp ≠ s.sp → mn ∈ [.pha, .php, .pla, .plp, .jsr, .rts, .brk, .rti, .txs]) ∧
    (mn ∈ [.pha, .php, .jsr, .brk] → ∀ a : Addr, (busIndex a < 0x100 ∨ 0x1FF < busIndex a) → t.read a = s.read a)

/-- R41 (the spec's own derivation): the instructions that can change each flag. -/
def Obligations.FlagsChangeOnlyByTheirWriters : Prop :=
  ∀ (i : Instr) (mn : Mnemonic) (mode : Mode) (s t : State), i.form = some (mn, mode) → exec i s = .next t →
    (t.p.c ≠ s.p.c →
      mn ∈ [.adc, .sbc, .cmp, .cpx, .cpy, .asl, .lsr, .rol, .ror, .clc, .sec, .plp, .rti]) ∧
    (t.p.z ≠ s.p.z ∨ t.p.n ≠ s.p.n →
      mn ∈ [.adc, .sbc, .cmp, .cpx, .cpy, .inc, .dec, .inx, .iny, .dex, .dey, .and, .ora, .eor, .bit,
        .asl, .lsr, .rol, .ror, .lda, .ldx, .ldy, .tax, .tay, .txa, .tya, .tsx, .pla, .plp, .rti]) ∧
    (t.p.v ≠ s.p.v → mn ∈ [.adc, .sbc, .bit, .clv, .plp, .rti]) ∧
    (t.p.i ≠ s.p.i → mn ∈ [.cli, .sei, .brk, .plp, .rti]) ∧
    (t.p.d ≠ s.p.d → mn ∈ [.cld, .sed, .plp, .rti])

/-- R41, R167, R303 (no decimal mode and no interrupt input: the spec's decisions D3, D16, log entries 8 and 10): D and I
reach nothing but the pushed status image. -/
def Obligations.DecimalAndInterruptFlagsAreNotRead : Prop :=
  ∀ (i : Instr) (d k : Bool) (s t : State), i ≠ .php → i ≠ .brk → exec i s = .next t →
    cycles i { s with p := { s.p with d := d, i := k } } = cycles i s ∧
    ∃ u, exec i { s with p := { s.p with d := d, i := k } } = .next u ∧
      u = { t with p := { t.p with d := u.p.d, i := u.p.i } }

/-- The model's own division of the final cycle of R333 into exec and the step around it (log entry 20, DEDUCED): exec neither
reads nor writes the latches of R45, nor draws, the model's own field (log entry 3). -/
def Obligations.InstructionsDoNotTouchLatches : Prop :=
  ∀ (i : Instr) (s t : State), exec i s = .next t →
    (t.ready = s.ready ∧ t.opcode = s.opcode ∧ t.cycle = s.cycle ∧ t.scratch = s.scratch ∧ t.draws = s.draws) ∧
    ∀ (r : Bool) (o : Byte) (k : Nat) (sc : Addr) (n : Nat),
      exec i { s with ready := r, opcode := o, cycle := k, scratch := sc, draws := n } =
        .next { t with ready := r, opcode := o, cycle := k, scratch := sc, draws := n }

/-! The step engine, reset and construction (70_reset_and_hazards.md). -/

/-- R330, R105 (the refusal at the fetch is the spec's decision D2, log entry 9): the fetch step latches the byte and
moves PC, or refuses. -/
def Obligations.FetchStepLatchesOpcode : Prop :=
  ∀ s : State, s.ready = true →
    (admitsOpcode Config.admittedSet (s.read s.pc) = true →
      step s = .next { s with
        opcode := s.read s.pc, pc := BitVec.ofNat 16 (s.pc.toNat + 1), ready := false, cycle := 0 }) ∧
    (admitsOpcode Config.admittedSet (s.read s.pc) = false →
      step s = .refused (.undocumentedOpcode (s.read s.pc) s.pc))

/-- R332, R333 (the schedule is the spec's decision D19, log entry 11; scratch and draws take free values, log entry 3):
at the final cycle, when the latched byte and the bytes after it decode to i, the step is exec of i at the boundary state
it started from, and the machine is ready again; before it, only the counter, scratch and draws move. -/
def Obligations.StepRunsTheDecodedInstruction : Prop :=
  ∀ (s : State) (i : Instr) (rest : List Byte), s.ready = false →
    admitsOpcode Config.admittedSet s.opcode = true →
    decode [s.opcode, s.read s.pc, s.read (s.pc + 1#16)] = .ok (i, rest) →
    let b := { s with pc := s.pc - 1#16, ready := true, cycle := 0 }
    (s.cycle + 2 < cycles i b →
      ∃ t, step s = .next t ∧ t = { s with cycle := s.cycle + 1, scratch := t.scratch, draws := t.draws }) ∧
    (s.cycle + 2 = cycles i b →
      ∃ t u, exec i b = .next t ∧ step s = .next u ∧
        u = { t with ready := true, cycle := 0, scratch := u.scratch, draws := u.draws })

/-- R331 to R333, R336, R337 (the schedule is the spec's decision D19, log entry 11; scratch and draws take free values,
log entry 3): from a boundary, an instruction takes exactly its cycle count of steps, and the boundary state after them is
exec of the instruction that the bytes at PC decode to. -/
def Obligations.InstructionTakesItsCyclesAndIsExec : Prop :=
  ∀ (s : State) (i : Instr) (rest : List Byte), s.ready = true →
    admitsOpcode Config.admittedSet (s.read s.pc) = true →
    decode [s.read s.pc, s.read (s.pc + 1#16), s.read (s.pc + 2#16)] = .ok (i, rest) →
    ∃ t u, exec i s = .next t ∧ RunsTo (cycles i s) s u ∧
      u = { t with
        ready := true, opcode := s.read s.pc, cycle := 0, scratch := u.scratch, draws := u.draws }

/-- R136, R332, R335 (the mid-instruction values and the schedule are the spec's decisions D17 and D19, log entry 11;
scratch and draws take free values, log entry 3): after any number of steps short of the final one, PC is PC0 + 1 and no
register and no byte of memory has changed. -/
def Obligations.NothingChangesBeforeTheFinalCycle : Prop :=
  ∀ (s : State) (k : Nat), s.ready = true → admitsOpcode Config.admittedSet (s.read s.pc) = true →
    k + 1 < cycles (fetchedInstr s) s →
    ∃ u, RunsTo (k + 1) s u ∧
      u = { s with
        pc := s.pc + 1#16, ready := false, opcode := s.read s.pc, cycle := k
        scratch := u.scratch, draws := u.draws }

/-- R61, R330 to R333: every step keeps the invariant, from every state that meets it. -/
def Obligations.StepKeepsTheInvariant : Prop :=
  ∀ s t : State, s.Inv → step s = .next t → t.Inv

/-- R331, R340: the invariant holds after reset. -/
def Obligations.ResetMeetsTheInvariant : Prop := State.reset.Inv

/-- R301, R302, R304 (that refusal is the spec's decision D2, log entry 9): from a state that meets the invariant, the
only stop is the refusal of a byte at a fetch. -/
def Obligations.OnlyAFetchCanStop : Prop :=
  ∀ s : State, s.Inv →
    (∃ t, step s = .next t) ∨
    (s.ready = true ∧ admitsOpcode Config.admittedSet (s.read s.pc) = false ∧
      step s = .refused (.undocumentedOpcode (s.read s.pc) s.pc))

/-- R301, R302: no run from a state that meets the invariant ends in a fault (the one fault is the model's own, log entry
5). -/
def Obligations.NoRunFaults : Prop := ∀ s : State, s.Inv → NeverFaults s

/-- R45, R332, R337 (the range is the spec's own derivation, with its decision D19, log entry 11): the cycle counter stays
in 0..5, and every count is 2 to 7. The count of an undocumented byte is the model's (log entry 9). -/
def Obligations.CycleCounterRange : Prop :=
  (∀ s : State, s.Inv → s.cycle ≤ 5) ∧
  (∀ (penalty : Bool) (i : Instr) (s : State), i.wellFormed = true → 2 ≤ cyclesWith penalty i s ∧ cyclesWith penalty i s ≤ 7)

/-- R138, R337 (the parameter is the spec's decision D18, log entry 7): PAGE_CROSS_PENALTY = true adds one cycle to a read
in ABSX, ABSY or INDY exactly when the low-byte sum carries, and adds none to the write and RMW classes or to a branch. -/
def Obligations.PageCrossCostsOneCycle : Prop :=
  (∀ (m : MemMode) (s : State),
    let carries : Bool := match m with
      | .absx w => decide (256 ≤ w.toNat % 256 + s.x.toNat)
      | .absy w => decide (256 ≤ w.toNat % 256 + s.y.toNat)
      | .indy b => decide (256 ≤ (s.read (BitVec.ofNat 16 b.toNat)).toNat + s.y.toNat)
      | _ => false
    ∀ i ∈ [Instr.adc (.mem m), Instr.sbc (.mem m), Instr.cmp (.mem m), Instr.and (.mem m), Instr.ora (.mem m),
        Instr.eor (.mem m), Instr.lda (.mem m), Instr.ldx (.mem m), Instr.ldy (.mem m)],
      cyclesWith true i s = cyclesWith false i s + if carries = true then 1 else 0) ∧
  (∀ (m : MemMode) (d : Byte) (s : State),
    ∀ i ∈ [Instr.sta m, Instr.stx m, Instr.sty m, Instr.inc m, Instr.dec m, Instr.asl (.mem m), Instr.lsr (.mem m),
        Instr.rol (.mem m), Instr.ror (.mem m), Instr.bpl d, Instr.bmi d, Instr.bvc d, Instr.bvs d, Instr.bcc d, Instr.bcs d, Instr.bne d,
        Instr.beq d],
      cyclesWith true i s = cyclesWith false i s)

/-- R337, R240 (with the page-cross penalty off: the spec's decision D18, log entry 7; the branch counts are its own
derivation, log entry 16): the base counts of the cycle table, row by row over the modes of each mnemonic, and the one
cycle of a taken branch. -/
def Obligations.CycleTableEntries : Prop :=
  (∀ mn ∈ [Mnemonic.adc, .sbc, .cmp, .and, .ora, .eor, .lda], mn.modes.map (baseCycles mn) = [2, 3, 4, 4, 4, 4, 6, 5]) ∧
  (∀ mn ∈ [Mnemonic.cpx, .cpy], mn.modes.map (baseCycles mn) = [2, 3, 4]) ∧
  Mnemonic.bit.modes.map (baseCycles .bit) = [3, 4] ∧
  (∀ mn ∈ [Mnemonic.inc, .dec], mn.modes.map (baseCycles mn) = [5, 6, 6, 7]) ∧
  (∀ mn ∈ [Mnemonic.asl, .lsr, .rol, .ror], mn.modes.map (baseCycles mn) = [2, 5, 6, 6, 7]) ∧
  (∀ mn ∈ [Mnemonic.ldx, .ldy], mn.modes.map (baseCycles mn) = [2, 3, 4, 4, 4]) ∧
  Mnemonic.sta.modes.map (baseCycles .sta) = [3, 4, 4, 5, 5, 6, 6] ∧
  (∀ mn ∈ [Mnemonic.stx, .sty], mn.modes.map (baseCycles mn) = [3, 4, 4]) ∧
  (∀ mn ∈ [Mnemonic.bpl, .bmi, .bvc, .bvs, .bcc, .bcs, .bne, .beq], mn.modes.map (baseCycles mn) = [2]) ∧
  (∀ mn ∈ [Mnemonic.inx, .iny, .dex, .dey, .tax, .tay, .txa, .tya, .tsx, .txs, .nop, .clc, .cld, .cli, .clv, .sec, .sed,
    .sei], mn.modes.map (baseCycles mn) = [2]) ∧
  (∀ mn ∈ [Mnemonic.pha, .php], mn.modes.map (baseCycles mn) = [3]) ∧
  (∀ mn ∈ [Mnemonic.pla, .plp], mn.modes.map (baseCycles mn) = [4]) ∧
  Mnemonic.jmp.modes.map (baseCycles .jmp) = [3, 5] ∧
  (∀ mn ∈ [Mnemonic.jsr, .rts, .rti], mn.modes.map (baseCycles mn) = [6]) ∧
  Mnemonic.brk.modes.map (baseCycles .brk) = [7] ∧
  ∀ (i : Instr) (mn : Mnemonic) (mode : Mode) (s : State), i.form = some (mn, mode) →
    cyclesWith false i s = baseCycles mn mode + if takenBranch i s.p = true then 1 else 0

/-- R99, R100, R125, R126, R131 to R133 at the values of the parameters that are not the default (the parameters are the
spec's decisions D1, D14, D15, log entry 7). -/
def Obligations.OtherParameterValues : Prop :=
  (∀ (s : State) (b : Byte),
    (effAddrWith false (.zpx b) s).toNat = b.toNat + s.x.toNat ∧
    (effAddrWith false (.zpy b) s).toNat = b.toNat + s.y.toNat ∧
    (effAddrWith false (.indx b) s).toNat =
      (s.read (BitVec.ofNat 16 ((b.toNat + s.x.toNat) % 256))).toNat +
        256 * (s.read (BitVec.ofNat 16 ((b.toNat + s.x.toNat) % 256 + 1))).toNat ∧
    (effAddrWith false (.indy b) s).toNat =
      ((s.read (BitVec.ofNat 16 b.toNat)).toNat + 256 * (s.read (BitVec.ofNat 16 (b.toNat + 1))).toNat +
        s.y.toNat) % 65536) ∧
  (∀ (s : State) (ptr : Addr), indirectTarget false s ptr = s.read16 ptr) ∧
  ∀ op : Byte, admitsOpcode .sourceNamed op = true ↔ ∃ mn mode, decode8 op = some (mn, mode) ∧
    mn ∉ [.lsr, .ror, .inc, .dec, .inx, .iny, .tay, .tya, .tsx, .sec, .sed, .sei, .jmp, .rts, .rti]

/-- R47 (the values are the spec's decisions D7 to D9, log entries 1 and 2): the state after reset. -/
def Obligations.ResetState : Prop :=
  (State.reset.a = 0x00#8 ∧ State.reset.x = 0x00#8 ∧ State.reset.y = 0x00#8 ∧ State.reset.sp = 0xFD#8 ∧
    State.reset.p.byte = 0x24#8 ∧ State.reset.pc = 0x8000#16 ∧ State.reset.ready = true ∧
    State.reset.opcode = 0x00#8 ∧ State.reset.cycle = 0 ∧ State.reset.scratch = 0x0000#16) ∧
  ∀ a : Addr, State.reset.read a = Config.initMem (busIndex a)

/-- R68, R69, R340 (INIT_MEM, the registers and the PC source are the spec's parameters D7 to D9, log entries 1 and 2;
refusal of an image that does not fit is its decision D20, log entry 18): construction loads the image at 0x8000, leaves
every other byte its draw, and takes the registers and PC it is given. -/
def Obligations.ConstructionLoadsTheImage : Prop :=
  ∀ (regs : Config.ResetRegs) (source : Config.PcSource) (image : List Byte),
    (0x8000 + image.length ≤ 0x10000 →
      ∃ s, construct regs source image = .next s ∧ s.Inv ∧ s.ready = true ∧
        s.a = regs.a ∧ s.x = regs.x ∧ s.y = regs.y ∧ s.sp = regs.sp ∧ s.p = Status.ofByte regs.p ∧
        (s.pc = match source with
          | .fixed a => a
          | .vector => s.read16 0xFFFC#16) ∧
        (∀ (k : Nat) (b : Byte), image[k]? = some b → s.read (BitVec.ofNat 16 (0x8000 + k)) = b) ∧
        (∀ a : Addr, a.toNat < 0x8000 ∨ 0x8000 + image.length ≤ a.toNat → s.read a = Config.initMem (busIndex a))) ∧
    (0x10000 < 0x8000 + image.length →
      construct regs source image = .refused (.loadOutOfRange 0x8000#16 image.length))

/-- Log entry 6: a table word placed by withFetchWord is the instruction the very next step runs, on the state with the word's
bytes at the boundary's PC. -/
def Obligations.PlacedWordRunsInOneStep : Prop :=
  ∀ (s : State) (nbits w : Nat) (i : Instr), decodeTableWord nbits w = some i → i.documented = true →
    ∃ t u, exec i (placeInstr s (tableBytes nbits w)) = .next t ∧ step (s.withFetchWord nbits w) = .next u ∧
      u = { t with
        ready := true, opcode := u.opcode, cycle := 0, scratch := u.scratch, draws := u.draws }
end

