-- ==== Sys2Proof/Laws/State.lean ====
section
/-! SUPPORT. Every field of every state update, so that no proof unfolds a record update: one lemma per field per update,
each true by definition. -/

namespace Sys2Proof.Machine

@[simp] theorem State.advance_a (s : State) (len : Nat) : (s.advance len).a = s.a := rfl
@[simp] theorem State.advance_x (s : State) (len : Nat) : (s.advance len).x = s.x := rfl
@[simp] theorem State.advance_y (s : State) (len : Nat) : (s.advance len).y = s.y := rfl
@[simp] theorem State.advance_sp (s : State) (len : Nat) : (s.advance len).sp = s.sp := rfl
@[simp] theorem State.advance_pc (s : State) (len : Nat) : (s.advance len).pc = s.pc + BitVec.ofNat 16 len := rfl
@[simp] theorem State.advance_p (s : State) (len : Nat) : (s.advance len).p = s.p := rfl
@[simp] theorem State.advance_ready (s : State) (len : Nat) : (s.advance len).ready = s.ready := rfl
@[simp] theorem State.advance_opcode (s : State) (len : Nat) : (s.advance len).opcode = s.opcode := rfl
@[simp] theorem State.advance_cycle (s : State) (len : Nat) : (s.advance len).cycle = s.cycle := rfl
@[simp] theorem State.advance_scratch (s : State) (len : Nat) : (s.advance len).scratch = s.scratch := rfl
@[simp] theorem State.advance_mem (s : State) (len : Nat) : (s.advance len).mem = s.mem := rfl
@[simp] theorem State.advance_draws (s : State) (len : Nat) : (s.advance len).draws = s.draws := rfl

@[simp] theorem State.write_a (s : State) (at' : Addr) (v : Byte) : (s.write at' v).a = s.a := rfl
@[simp] theorem State.write_x (s : State) (at' : Addr) (v : Byte) : (s.write at' v).x = s.x := rfl
@[simp] theorem State.write_y (s : State) (at' : Addr) (v : Byte) : (s.write at' v).y = s.y := rfl
@[simp] theorem State.write_sp (s : State) (at' : Addr) (v : Byte) : (s.write at' v).sp = s.sp := rfl
@[simp] theorem State.write_pc (s : State) (at' : Addr) (v : Byte) : (s.write at' v).pc = s.pc := rfl
@[simp] theorem State.write_p (s : State) (at' : Addr) (v : Byte) : (s.write at' v).p = s.p := rfl
@[simp] theorem State.write_ready (s : State) (at' : Addr) (v : Byte) : (s.write at' v).ready = s.ready := rfl
@[simp] theorem State.write_opcode (s : State) (at' : Addr) (v : Byte) : (s.write at' v).opcode = s.opcode := rfl
@[simp] theorem State.write_cycle (s : State) (at' : Addr) (v : Byte) : (s.write at' v).cycle = s.cycle := rfl
@[simp] theorem State.write_scratch (s : State) (at' : Addr) (v : Byte) : (s.write at' v).scratch = s.scratch := rfl
@[simp] theorem State.write_mem (s : State) (at' : Addr) (v : Byte) : (s.write at' v).mem = s.mem.set (busIndex at') v := rfl
@[simp] theorem State.write_draws (s : State) (at' : Addr) (v : Byte) : (s.write at' v).draws = s.draws := rfl

@[simp] theorem State.store_a (s : State) (m : MemMode) (v : Byte) : (s.store m v).a = s.a := rfl
@[simp] theorem State.store_x (s : State) (m : MemMode) (v : Byte) : (s.store m v).x = s.x := rfl
@[simp] theorem State.store_y (s : State) (m : MemMode) (v : Byte) : (s.store m v).y = s.y := rfl
@[simp] theorem State.store_sp (s : State) (m : MemMode) (v : Byte) : (s.store m v).sp = s.sp := rfl
@[simp] theorem State.store_pc (s : State) (m : MemMode) (v : Byte) : (s.store m v).pc = s.pc := rfl
@[simp] theorem State.store_p (s : State) (m : MemMode) (v : Byte) : (s.store m v).p = s.p := rfl
@[simp] theorem State.store_ready (s : State) (m : MemMode) (v : Byte) : (s.store m v).ready = s.ready := rfl
@[simp] theorem State.store_opcode (s : State) (m : MemMode) (v : Byte) : (s.store m v).opcode = s.opcode := rfl
@[simp] theorem State.store_cycle (s : State) (m : MemMode) (v : Byte) : (s.store m v).cycle = s.cycle := rfl
@[simp] theorem State.store_scratch (s : State) (m : MemMode) (v : Byte) : (s.store m v).scratch = s.scratch := rfl
@[simp] theorem State.store_mem (s : State) (m : MemMode) (v : Byte) : (s.store m v).mem = s.mem.set (busIndex (effAddr m s)) v := rfl
@[simp] theorem State.store_draws (s : State) (m : MemMode) (v : Byte) : (s.store m v).draws = s.draws := rfl

@[simp] theorem State.push_a (s : State) (v : Byte) : (s.push v).a = s.a := rfl
@[simp] theorem State.push_x (s : State) (v : Byte) : (s.push v).x = s.x := rfl
@[simp] theorem State.push_y (s : State) (v : Byte) : (s.push v).y = s.y := rfl
@[simp] theorem State.push_sp (s : State) (v : Byte) : (s.push v).sp = s.sp - 1#8 := rfl
@[simp] theorem State.push_pc (s : State) (v : Byte) : (s.push v).pc = s.pc := rfl
@[simp] theorem State.push_p (s : State) (v : Byte) : (s.push v).p = s.p := rfl
@[simp] theorem State.push_ready (s : State) (v : Byte) : (s.push v).ready = s.ready := rfl
@[simp] theorem State.push_opcode (s : State) (v : Byte) : (s.push v).opcode = s.opcode := rfl
@[simp] theorem State.push_cycle (s : State) (v : Byte) : (s.push v).cycle = s.cycle := rfl
@[simp] theorem State.push_scratch (s : State) (v : Byte) : (s.push v).scratch = s.scratch := rfl
@[simp] theorem State.push_mem (s : State) (v : Byte) : (s.push v).mem = s.mem.set (busIndex (stackAddr s.sp)) v := rfl
@[simp] theorem State.push_draws (s : State) (v : Byte) : (s.push v).draws = s.draws := rfl

@[simp] theorem State.push16_a (s : State) (w : Addr) : (s.push16 w).a = s.a := rfl
@[simp] theorem State.push16_x (s : State) (w : Addr) : (s.push16 w).x = s.x := rfl
@[simp] theorem State.push16_y (s : State) (w : Addr) : (s.push16 w).y = s.y := rfl
@[simp] theorem State.push16_sp (s : State) (w : Addr) : (s.push16 w).sp = s.sp - 1#8 - 1#8 := rfl
@[simp] theorem State.push16_pc (s : State) (w : Addr) : (s.push16 w).pc = s.pc := rfl
@[simp] theorem State.push16_p (s : State) (w : Addr) : (s.push16 w).p = s.p := rfl
@[simp] theorem State.push16_ready (s : State) (w : Addr) : (s.push16 w).ready = s.ready := rfl
@[simp] theorem State.push16_opcode (s : State) (w : Addr) : (s.push16 w).opcode = s.opcode := rfl
@[simp] theorem State.push16_cycle (s : State) (w : Addr) : (s.push16 w).cycle = s.cycle := rfl
@[simp] theorem State.push16_scratch (s : State) (w : Addr) : (s.push16 w).scratch = s.scratch := rfl
@[simp] theorem State.push16_mem (s : State) (w : Addr) : (s.push16 w).mem = (s.mem.set (busIndex (stackAddr s.sp)) (hiByte w)).set (busIndex (stackAddr (s.sp - 1#8))) (loByte w) := rfl
@[simp] theorem State.push16_draws (s : State) (w : Addr) : (s.push16 w).draws = s.draws := rfl

@[simp] theorem State.afterPull_a (s : State) : (s.afterPull).a = s.a := rfl
@[simp] theorem State.afterPull_x (s : State) : (s.afterPull).x = s.x := rfl
@[simp] theorem State.afterPull_y (s : State) : (s.afterPull).y = s.y := rfl
@[simp] theorem State.afterPull_sp (s : State) : (s.afterPull).sp = s.sp + 1#8 := rfl
@[simp] theorem State.afterPull_pc (s : State) : (s.afterPull).pc = s.pc := rfl
@[simp] theorem State.afterPull_p (s : State) : (s.afterPull).p = s.p := rfl
@[simp] theorem State.afterPull_ready (s : State) : (s.afterPull).ready = s.ready := rfl
@[simp] theorem State.afterPull_opcode (s : State) : (s.afterPull).opcode = s.opcode := rfl
@[simp] theorem State.afterPull_cycle (s : State) : (s.afterPull).cycle = s.cycle := rfl
@[simp] theorem State.afterPull_scratch (s : State) : (s.afterPull).scratch = s.scratch := rfl
@[simp] theorem State.afterPull_mem (s : State) : (s.afterPull).mem = s.mem := rfl
@[simp] theorem State.afterPull_draws (s : State) : (s.afterPull).draws = s.draws := rfl

@[simp] theorem State.afterPull16_a (s : State) : (s.afterPull16).a = s.a := rfl
@[simp] theorem State.afterPull16_x (s : State) : (s.afterPull16).x = s.x := rfl
@[simp] theorem State.afterPull16_y (s : State) : (s.afterPull16).y = s.y := rfl
@[simp] theorem State.afterPull16_sp (s : State) : (s.afterPull16).sp = s.sp + 1#8 + 1#8 := rfl
@[simp] theorem State.afterPull16_pc (s : State) : (s.afterPull16).pc = s.pc := rfl
@[simp] theorem State.afterPull16_p (s : State) : (s.afterPull16).p = s.p := rfl
@[simp] theorem State.afterPull16_ready (s : State) : (s.afterPull16).ready = s.ready := rfl
@[simp] theorem State.afterPull16_opcode (s : State) : (s.afterPull16).opcode = s.opcode := rfl
@[simp] theorem State.afterPull16_cycle (s : State) : (s.afterPull16).cycle = s.cycle := rfl
@[simp] theorem State.afterPull16_scratch (s : State) : (s.afterPull16).scratch = s.scratch := rfl
@[simp] theorem State.afterPull16_mem (s : State) : (s.afterPull16).mem = s.mem := rfl
@[simp] theorem State.afterPull16_draws (s : State) : (s.afterPull16).draws = s.draws := rfl

@[simp] theorem State.branch_a (s : State) (taken : Bool) (d : Byte) : (s.branch taken d).a = s.a := rfl
@[simp] theorem State.branch_x (s : State) (taken : Bool) (d : Byte) : (s.branch taken d).x = s.x := rfl
@[simp] theorem State.branch_y (s : State) (taken : Bool) (d : Byte) : (s.branch taken d).y = s.y := rfl
@[simp] theorem State.branch_sp (s : State) (taken : Bool) (d : Byte) : (s.branch taken d).sp = s.sp := rfl
@[simp] theorem State.branch_pc (s : State) (taken : Bool) (d : Byte) : (s.branch taken d).pc = if taken then branchTarget s d else s.pc + 2#16 := rfl
@[simp] theorem State.branch_p (s : State) (taken : Bool) (d : Byte) : (s.branch taken d).p = s.p := rfl
@[simp] theorem State.branch_ready (s : State) (taken : Bool) (d : Byte) : (s.branch taken d).ready = s.ready := rfl
@[simp] theorem State.branch_opcode (s : State) (taken : Bool) (d : Byte) : (s.branch taken d).opcode = s.opcode := rfl
@[simp] theorem State.branch_cycle (s : State) (taken : Bool) (d : Byte) : (s.branch taken d).cycle = s.cycle := rfl
@[simp] theorem State.branch_scratch (s : State) (taken : Bool) (d : Byte) : (s.branch taken d).scratch = s.scratch := rfl
@[simp] theorem State.branch_mem (s : State) (taken : Bool) (d : Byte) : (s.branch taken d).mem = s.mem := rfl
@[simp] theorem State.branch_draws (s : State) (taken : Bool) (d : Byte) : (s.branch taken d).draws = s.draws := rfl

@[simp] theorem drawScratch_a (s : State) : (drawScratch s).a = s.a := rfl
@[simp] theorem drawScratch_x (s : State) : (drawScratch s).x = s.x := rfl
@[simp] theorem drawScratch_y (s : State) : (drawScratch s).y = s.y := rfl
@[simp] theorem drawScratch_sp (s : State) : (drawScratch s).sp = s.sp := rfl
@[simp] theorem drawScratch_pc (s : State) : (drawScratch s).pc = s.pc := rfl
@[simp] theorem drawScratch_p (s : State) : (drawScratch s).p = s.p := rfl
@[simp] theorem drawScratch_ready (s : State) : (drawScratch s).ready = s.ready := rfl
@[simp] theorem drawScratch_opcode (s : State) : (drawScratch s).opcode = s.opcode := rfl
@[simp] theorem drawScratch_cycle (s : State) : (drawScratch s).cycle = s.cycle := rfl
@[simp] theorem drawScratch_scratch (s : State) : (drawScratch s).scratch = Config.scratchDraw s.draws := rfl
@[simp] theorem drawScratch_mem (s : State) : (drawScratch s).mem = s.mem := rfl
@[simp] theorem drawScratch_draws (s : State) : (drawScratch s).draws = s.draws + 1 := rfl

@[simp] theorem intermediateStep_a (s : State) : (intermediateStep s).a = s.a := rfl
@[simp] theorem intermediateStep_x (s : State) : (intermediateStep s).x = s.x := rfl
@[simp] theorem intermediateStep_y (s : State) : (intermediateStep s).y = s.y := rfl
@[simp] theorem intermediateStep_sp (s : State) : (intermediateStep s).sp = s.sp := rfl
@[simp] theorem intermediateStep_pc (s : State) : (intermediateStep s).pc = s.pc := rfl
@[simp] theorem intermediateStep_p (s : State) : (intermediateStep s).p = s.p := rfl
@[simp] theorem intermediateStep_ready (s : State) : (intermediateStep s).ready = s.ready := rfl
@[simp] theorem intermediateStep_opcode (s : State) : (intermediateStep s).opcode = s.opcode := rfl
@[simp] theorem intermediateStep_cycle (s : State) : (intermediateStep s).cycle = s.cycle + 1 := rfl
@[simp] theorem intermediateStep_scratch (s : State) : (intermediateStep s).scratch = Config.scratchDraw s.draws := rfl
@[simp] theorem intermediateStep_mem (s : State) : (intermediateStep s).mem = s.mem := rfl
@[simp] theorem intermediateStep_draws (s : State) : (intermediateStep s).draws = s.draws + 1 := rfl

@[simp] theorem commit_a (s : State) : (commit s).a = s.a := rfl
@[simp] theorem commit_x (s : State) : (commit s).x = s.x := rfl
@[simp] theorem commit_y (s : State) : (commit s).y = s.y := rfl
@[simp] theorem commit_sp (s : State) : (commit s).sp = s.sp := rfl
@[simp] theorem commit_pc (s : State) : (commit s).pc = s.pc := rfl
@[simp] theorem commit_p (s : State) : (commit s).p = s.p := rfl
@[simp] theorem commit_ready (s : State) : (commit s).ready = true := rfl
@[simp] theorem commit_opcode (s : State) : (commit s).opcode = s.opcode := rfl
@[simp] theorem commit_cycle (s : State) : (commit s).cycle = 0 := rfl
@[simp] theorem commit_scratch (s : State) : (commit s).scratch = Config.scratchDraw s.draws := rfl
@[simp] theorem commit_mem (s : State) : (commit s).mem = s.mem := rfl
@[simp] theorem commit_draws (s : State) : (commit s).draws = s.draws + 1 := rfl

@[simp] theorem startOf_a (s : State) : (startOf s).a = s.a := rfl
@[simp] theorem startOf_x (s : State) : (startOf s).x = s.x := rfl
@[simp] theorem startOf_y (s : State) : (startOf s).y = s.y := rfl
@[simp] theorem startOf_sp (s : State) : (startOf s).sp = s.sp := rfl
@[simp] theorem startOf_pc (s : State) : (startOf s).pc = s.pc - 1#16 := rfl
@[simp] theorem startOf_p (s : State) : (startOf s).p = s.p := rfl
@[simp] theorem startOf_ready (s : State) : (startOf s).ready = true := rfl
@[simp] theorem startOf_opcode (s : State) : (startOf s).opcode = s.opcode := rfl
@[simp] theorem startOf_cycle (s : State) : (startOf s).cycle = 0 := rfl
@[simp] theorem startOf_scratch (s : State) : (startOf s).scratch = s.scratch := rfl
@[simp] theorem startOf_mem (s : State) : (startOf s).mem = s.mem := rfl
@[simp] theorem startOf_draws (s : State) : (startOf s).draws = s.draws := rfl

@[simp] theorem latchFetched_a (s : State) : (latchFetched s).a = s.a := rfl
@[simp] theorem latchFetched_x (s : State) : (latchFetched s).x = s.x := rfl
@[simp] theorem latchFetched_y (s : State) : (latchFetched s).y = s.y := rfl
@[simp] theorem latchFetched_sp (s : State) : (latchFetched s).sp = s.sp := rfl
@[simp] theorem latchFetched_pc (s : State) : (latchFetched s).pc = s.pc + 1#16 := rfl
@[simp] theorem latchFetched_p (s : State) : (latchFetched s).p = s.p := rfl
@[simp] theorem latchFetched_ready (s : State) : (latchFetched s).ready = false := rfl
@[simp] theorem latchFetched_opcode (s : State) : (latchFetched s).opcode = s.read s.pc := rfl
@[simp] theorem latchFetched_cycle (s : State) : (latchFetched s).cycle = 0 := rfl
@[simp] theorem latchFetched_scratch (s : State) : (latchFetched s).scratch = s.scratch := rfl
@[simp] theorem latchFetched_mem (s : State) : (latchFetched s).mem = s.mem := rfl
@[simp] theorem latchFetched_draws (s : State) : (latchFetched s).draws = s.draws := rfl

end Sys2Proof.Machine
end

