-- ==== Sys2Proof/Laws/Memory.lean ====
section
/-! SUPPORT. Laws of bus storage: read after write, the canonical form, extensionality, and the address decode. -/

namespace Sys2Proof.Machine

theorem lookupCells_putCells (cs : List Host.Cell) (i j : Nat) (v : Byte) :
    lookupCells (putCells cs i v) j = if j = i then some v else lookupCells cs j := by
  induction cs with
  | nil => simp only [putCells, lookupCells, eq_comm]
  | cons c cs ih =>
    unfold putCells
    split
    · simp only [lookupCells, eq_comm]
    · split
      · subst_vars
        by_cases h : c.1 = j
        · simp [lookupCells, h]
        · simp [lookupCells, h, Ne.symm h]
      · by_cases h : c.1 = j
        · subst h; simp [lookupCells]; omega
        · simp [lookupCells, h, ih]

/-- R63: a read of storage gives the byte last written to the same index. -/
theorem Memory.get_set (m : Memory) (i j : Nat) (v : Byte) :
    (m.set i v).get j = if j = i then v else m.get j := by
  unfold Memory.get Memory.set
  rw [lookupCells_putCells]
  split <;> rfl

@[simp] theorem Memory.get_set_self (m : Memory) (i : Nat) (v : Byte) : (m.set i v).get i = v := by
  simp [Memory.get_set]

theorem Memory.get_set_ne (m : Memory) {i j : Nat} (v : Byte) (h : j ≠ i) : (m.set i v).get j = m.get j := by
  simp [Memory.get_set, h]

/-- R69: storage with nothing listed reads as the draw. -/
@[simp] theorem Memory.get_nil (i : Nat) : (Memory.mk []).get i = Config.initMem i := rfl

theorem risingCells_cons (c : Host.Cell) (cs : List Host.Cell) :
    risingCells (c :: cs) = true ↔ (∀ d ∈ cs.head?, c.1 < d.1) ∧ risingCells cs = true := by
  cases cs <;> simp [risingCells]

theorem head?_putCells (cs : List Host.Cell) (i : Nat) (v : Byte) (d : Host.Cell)
    (h : d ∈ (putCells cs i v).head?) : d.1 = i ∨ d ∈ cs.head? := by
  cases cs with
  | nil => simp only [putCells, List.head?_cons, Option.mem_def, Option.some.injEq] at h; simp [← h]
  | cons c cs =>
    unfold putCells at h
    split at h
    · simp only [List.head?_cons, Option.mem_def, Option.some.injEq] at h; simp [← h]
    · split at h
      · simp only [List.head?_cons, Option.mem_def, Option.some.injEq] at h; simp [← h]
      · simp_all

theorem risingCells_putCells (cs : List Host.Cell) (i : Nat) (v : Byte) (h : risingCells cs = true) :
    risingCells (putCells cs i v) = true := by
  induction cs with
  | nil => rfl
  | cons c cs ih =>
    rw [risingCells_cons] at h
    unfold putCells
    split
    · next hlt => exact (risingCells_cons _ _).2 ⟨by simpa using hlt, (risingCells_cons _ _).2 h⟩
    · split
      · next _ heq => exact (risingCells_cons _ _).2 ⟨by simpa [heq] using h.1, h.2⟩
      · next h1 h2 =>
        refine (risingCells_cons _ _).2 ⟨fun d hd => ?_, ih h.2⟩
        rcases head?_putCells cs i v d hd with rfl | hd
        · omega
        · exact h.1 d hd

theorem all_putCells (f : Nat → Bool) (cs : List Host.Cell) (i : Nat) (v : Byte) (hi : f i = true)
    (h : (cs.all fun c => f c.1) = true) : ((putCells cs i v).all fun c => f c.1) = true := by
  induction cs with
  | nil => simpa [putCells] using hi
  | cons c cs ih =>
    simp only [List.all_cons, Bool.and_eq_true] at h
    unfold putCells
    split
    · simp [hi, h.1, h.2]
    · split
      · simp [hi, h.2]
      · simp [h.1, ih h.2]

/-- A write at a reachable index keeps the canonical form. -/
theorem Memory.wf_set (m : Memory) (i : Nat) (v : Byte) (hi : reachableIndex i = true) (h : m.wf = true) :
    (m.set i v).wf = true := by
  simp only [Memory.wf, Bool.and_eq_true] at h ⊢
  exact ⟨risingCells_putCells _ _ _ h.1, all_putCells reachableIndex _ _ _ hi h.2⟩

theorem lookupCells_of_rising_head (cs : List Host.Cell) (i : Nat) (h : risingCells cs = true)
    (hd : ∀ d ∈ cs.head?, i < d.1) : lookupCells cs i = none := by
  induction cs with
  | nil => rfl
  | cons c cs ih =>
    rw [risingCells_cons] at h
    have hc : i < c.1 := hd c (by simp)
    simp only [lookupCells, if_neg (show ¬ c.1 = i by omega)]
    exact ih h.2 fun d hd' => lt_trans hc (h.1 d hd')

/-- Two lists of rising cells that list the same bytes are the same list: equal memories are equal data. -/
theorem cells_ext (cs ds : List Host.Cell) (hc : risingCells cs = true) (hd : risingCells ds = true)
    (h : ∀ i, lookupCells cs i = lookupCells ds i) : cs = ds := by
  induction cs generalizing ds with
  | nil =>
    cases ds with
    | nil => rfl
    | cons d ds => simpa [lookupCells] using h d.1
  | cons c cs ih =>
    cases ds with
    | nil => simpa [lookupCells] using h c.1
    | cons d ds =>
      have h1 := (risingCells_cons _ _).1 hc
      have h2 := (risingCells_cons _ _).1 hd
      have key : c.1 = d.1 := by
        rcases lt_trichotomy c.1 d.1 with hlt | heq | hlt
        · have := h c.1
          rw [lookupCells_of_rising_head (d :: ds) c.1 hd (by simpa using hlt)] at this
          simp [lookupCells] at this
        · exact heq
        · have := h d.1
          rw [lookupCells_of_rising_head (c :: cs) d.1 hc (by simpa using hlt)] at this
          simp [lookupCells] at this
      have val : c.2 = d.2 := by
        have := h c.1
        simpa [lookupCells, key] using this
      have tail : cs = ds := by
        refine ih ds h1.2 h2.2 fun i => ?_
        by_cases hi : c.1 = i
        · subst hi
          rw [lookupCells_of_rising_head cs c.1 h1.2 h1.1,
            lookupCells_of_rising_head ds c.1 h2.2 (by rw [key]; exact h2.1)]
        · have := h i
          simpa [lookupCells, hi, key ▸ hi] using this
      rw [tail, Prod.ext key val]

theorem Memory.ext_of_wf (m n : Memory) (hm : m.wf = true) (hn : n.wf = true)
    (h : ∀ i, lookupCells m.cells i = lookupCells n.cells i) : m = n := by
  simp only [Memory.wf, Bool.and_eq_true] at hm hn
  cases m; cases n
  exact congrArg Memory.mk (cells_ext _ _ hm.1 hn.1 h)

theorem busIndex_ram (a : Addr) (h : a ≤ 0x1FFF#16) : busIndex a = (a &&& 0x07FF#16).toNat := by
  simp [busIndex, storageIndex, h, Config.ramMask]

theorem busIndex_ppu (a : Addr) (h1 : 0x2000#16 ≤ a) (h2 : a ≤ 0x3FFF#16) :
    busIndex a = (0x2000#16 ||| (a &&& 0x0007#16)).toNat := by
  have h : ¬ a ≤ 0x1FFF#16 := by bv_omega
  simp [busIndex, storageIndex, h, h2]

theorem busIndex_direct (a : Addr) (h : 0x4000#16 ≤ a) : busIndex a = a.toNat := by
  have h1 : ¬ a ≤ 0x1FFF#16 := by bv_omega
  have h2 : ¬ a ≤ 0x3FFF#16 := by bv_omega
  simp [busIndex, storageIndex, h1, h2]

theorem busIndex_lt (a : Addr) : busIndex a < 0x10000 := by
  unfold busIndex storageIndex
  split
  · exact BitVec.isLt _
  · split <;> exact BitVec.isLt _

/-- R61: decoding a storage index gives the index back. -/
theorem busIndex_idem (a : Addr) : busIndex (BitVec.ofNat 16 (busIndex a)) = busIndex a := by
  by_cases h1 : a ≤ 0x1FFF#16
  · rw [busIndex_ram a h1, BitVec.ofNat_toNat, BitVec.setWidth_eq]
    have hle : a &&& 0x07FF#16 ≤ 0x1FFF#16 :=
      BitVec.le_def.2 (le_trans (by rw [BitVec.toNat_and]; exact Nat.and_le_right) (by decide : 0x07FF ≤ 0x1FFF))
    rw [busIndex_ram _ hle, BitVec.and_assoc, BitVec.and_self]
  · by_cases h2 : a ≤ 0x3FFF#16
    · rw [busIndex_ppu a (by bv_omega) h2, BitVec.ofNat_toNat, BitVec.setWidth_eq]
      generalize hx : a &&& 0x0007#16 = x
      have hx7 : x.toNat ≤ 7 := by rw [← hx, BitVec.toNat_and]; exact Nat.and_le_right
      have hor : 0x2000#16 ||| x = 0x2000#16 + x := by
        have : x = BitVec.ofNat 16 x.toNat := by simp
        rw [this]; generalize x.toNat = k at hx7
        interval_cases k <;> rfl
      have hand : (0x2000#16 + x) &&& 0x0007#16 = x := by
        have : x = BitVec.ofNat 16 x.toNat := by simp
        rw [this]; generalize x.toNat = k at hx7
        interval_cases k <;> rfl
      rw [hor, busIndex_ppu _ (by bv_omega) (by bv_omega), hand, hor]
    · rw [busIndex_direct a (by bv_omega), BitVec.ofNat_toNat, BitVec.setWidth_eq, busIndex_direct a (by bv_omega)]

theorem reachableIndex_busIndex (a : Addr) : reachableIndex (busIndex a) = true := by
  simp [reachableIndex, busIndex_idem, busIndex_lt]

/-- MemRead after MemWrite, through the address decode. -/
theorem State.read_write (s : State) (a b : Addr) (v : Byte) :
    (s.write a v).read b = if busIndex b = busIndex a then v else s.read b := by
  simp only [State.read, State.write_mem, Memory.get_set]

theorem State.wf_write (s : State) (a : Addr) (v : Byte) (h : s.mem.wf = true) : (s.write a v).mem.wf = true :=
  Memory.wf_set _ _ _ (reachableIndex_busIndex a) h

theorem State.wf_push (s : State) (v : Byte) (h : s.mem.wf = true) : (s.push v).mem.wf = true :=
  Memory.wf_set _ _ _ (reachableIndex_busIndex _) h

theorem State.wf_push16 (s : State) (w : Addr) (h : s.mem.wf = true) : (s.push16 w).mem.wf = true :=
  State.wf_push _ _ (State.wf_push _ _ h)

theorem State.wf_modify (s : State) (m : RmwOperand) (f : Byte → Status → Byte × Status) (h : s.mem.wf = true) :
    (s.modify m f).mem.wf = true := by
  cases m with
  | acc => exact h
  | mem mm => exact State.wf_write s (effAddr mm s) _ h

theorem State.wf_takeBreak (s : State) (h : s.mem.wf = true) : s.takeBreak.mem.wf = true :=
  State.wf_push _ _ (State.wf_push16 _ _ h)

theorem wf_loadBytes (m : Memory) (origin : Addr) (bs : List Byte) (h : m.wf = true) :
    (loadBytes m origin bs).wf = true := by
  induction bs generalizing m origin with
  | nil => exact h
  | cons b bs ih => exact ih _ _ (Memory.wf_set _ _ _ (reachableIndex_busIndex _) h)

/-- The canonical form holds after reset. -/
theorem wf_reset : State.reset.mem.wf = true := rfl

end Sys2Proof.Machine
end

