-- ==== Sys2Proof/Laws/Exec.lean ====
section
/-! SUPPORT. One lemma per shared operation that says all it does, and what exec never does: touch a latch, stop on a
documented instruction, or leave the canonical form of bus storage. -/

namespace Sys2Proof.Machine

/-- R34: the stack byte of a stack pointer lies in page one of RAM storage. -/
theorem busIndex_stackAddr (sp : Byte) : busIndex (stackAddr sp) = 0x100 + sp.toNat := by
  have h : ∀ x : Byte, busIndex (stackAddr x) = 0x100 + x.toNat := by decide +kernel
  exact h sp

theorem busIndex_stackAddr_inj {p q : Byte} (h : busIndex (stackAddr p) = busIndex (stackAddr q)) : p = q := by
  simp only [busIndex_stackAddr] at h
  exact BitVec.eq_of_toNat_eq (by omega)

/-- R35: what a push leaves in memory. -/
theorem State.read_push (s : State) (v : Byte) (a : Addr) :
    (s.push v).read a = if busIndex a = 0x100 + s.sp.toNat then v else s.read a := by
  simp only [State.read, State.push_mem, Memory.get_set, busIndex_stackAddr]

/-- R37: what a 16-bit push leaves in memory. -/
theorem State.read_push16 (s : State) (w : Addr) (a : Addr) :
    (s.push16 w).read a =
      if busIndex a = 0x100 + (s.sp - 1#8).toNat then loByte w
      else if busIndex a = 0x100 + s.sp.toNat then hiByte w else s.read a := by
  simp only [State.read, State.push16_mem, Memory.get_set, busIndex_stackAddr]

/-- Reading memory does not depend on anything but bus storage. -/
theorem State.read_congr {s t : State} (h : s.mem = t.mem) (a : Addr) : s.read a = t.read a := by
  simp only [State.read, h]

@[simp] theorem State.read_advance (s : State) (n : Nat) (a : Addr) : (s.advance n).read a = s.read a := rfl
@[simp] theorem State.read_afterPull (s : State) (a : Addr) : s.afterPull.read a = s.read a := rfl
@[simp] theorem State.read_commit (s : State) (a : Addr) : (commit s).read a = s.read a := rfl
@[simp] theorem State.read_intermediateStep (s : State) (a : Addr) : (intermediateStep s).read a = s.read a := rfl
@[simp] theorem State.read_startOf (s : State) (a : Addr) : (startOf s).read a = s.read a := rfl

/-- R36 after R35: a pull gives back the byte pushed last. -/
theorem State.pulled_push (s : State) (v : Byte) : (s.push v).pulled = v := by
  simp [State.pulled, State.read_push, busIndex_stackAddr]

/-- R70: the value of a 16-bit quantity made of two bytes. -/
theorem toNat_le16 (lo hi : Byte) : (le16 lo hi).toNat = lo.toNat + 256 * hi.toNat := by
  have h : (le16 lo hi).toNat = hi.toNat <<< 8 ||| lo.toNat := BitVec.toNat_append hi lo
  rw [h, Nat.shiftLeft_eq, Nat.mul_comm, ← Nat.two_pow_add_eq_or_of_lt lo.isLt]
  omega

theorem toNat_loByte (w : Addr) : (loByte w).toNat = w.toNat % 256 := by
  simp [loByte, BitVec.extractLsb'_toNat]

theorem toNat_hiByte (w : Addr) : (hiByte w).toNat = w.toNat / 256 := by
  have := w.isLt
  simp only [hiByte, BitVec.extractLsb'_toNat, Nat.shiftRight_eq_div_pow]
  omega

@[simp] theorem loByte_le16 (lo hi : Byte) : loByte (le16 lo hi) = lo :=
  BitVec.eq_of_toNat_eq (by rw [toNat_loByte, toNat_le16]; have := lo.isLt; omega)

@[simp] theorem hiByte_le16 (lo hi : Byte) : hiByte (le16 lo hi) = hi :=
  BitVec.eq_of_toNat_eq (by rw [toNat_hiByte, toNat_le16]; have := lo.isLt; omega)

@[simp] theorem le16_lo_hi (w : Addr) : le16 (loByte w) (hiByte w) = w :=
  BitVec.eq_of_toNat_eq (by rw [toNat_le16, toNat_loByte, toNat_hiByte]; omega)

/-- R40, R42: the six flags of a status image are the flags it was made from. -/
@[simp] theorem Status.ofByte_image (p : Status) (b : Bool) : Status.ofByte (p.image b) = p := by
  rcases p with ⟨n, v, d, i, z, c⟩
  cases n <;> cases v <;> cases d <;> cases i <;> cases z <;> cases c <;> cases b <;> rfl

/-- R134, R136: the read-modify-write template writes at the address it read, and nowhere else. -/
theorem State.read_modify_mem (s : State) (m : MemMode) (f : Byte → Status → Byte × Status) (a : Addr) :
    (s.modify (.mem m) f).read a =
      if busIndex a = busIndex (effAddr m s) then (f (s.read (effAddr m s)) s.p).1 else s.read a :=
  State.read_write s (effAddr m s) a _

theorem State.modify_mem_eq (s : State) (m : MemMode) (f : Byte → Status → Byte × Status) :
    s.modify (.mem m) f =
      { s with mem := (s.modify (.mem m) f).mem, p := (f (s.read (effAddr m s)) s.p).2 } := rfl

theorem State.modify_acc_eq (s : State) (f : Byte → Status → Byte × Status) :
    s.modify .acc f = { s with a := (f s.a s.p).1, p := (f s.a s.p).2 } := rfl

/-- The state with its instruction-cycle latches (R45) set. -/
def setLatches (r : Bool) (o : Byte) (k : Nat) (sc : Addr) (d : Nat) (s : State) : State :=
  { s with ready := r, opcode := o, cycle := k, scratch := sc, draws := d }

/-- An outcome with its next state mapped. -/
def mapNext (f : State → State) : Host.Outcome State Fault Refusal → Host.Outcome State Fault Refusal
  | .next t => .next (f t)
  | .fault r => .fault r
  | .refused r => .refused r

/-- R333: an instruction neither reads nor writes a latch. -/
theorem exec_setLatches (i : Instr) (r : Bool) (o : Byte) (k : Nat) (sc : Addr) (d : Nat) (s : State) :
    exec i (setLatches r o k sc d s) = mapNext (setLatches r o k sc d) (exec i s) := by
  cases i with
  | asl m => cases m <;> rfl
  | lsr m => cases m <;> rfl
  | rol m => cases m <;> rfl
  | ror m => cases m <;> rfl
  | _ => rfl

theorem cycles_setLatches (i : Instr) (r : Bool) (o : Byte) (k : Nat) (sc : Addr) (d : Nat) (s : State) :
    cycles i (setLatches r o k sc d s) = cycles i s := by
  unfold cycles cyclesWith
  rfl

/-- Every documented instruction completes from every state. -/
theorem exec_completes (i : Instr) (s : State) (h : i.documented = true) : ∃ t, exec i s = .next t := by
  cases i with
  | undocumented op => simp [Instr.documented, Instr.form] at h
  | _ => exact ⟨_, rfl⟩

/-- Every instruction that completes keeps the canonical form of bus storage. -/
theorem exec_wf (i : Instr) (s t : State) (h : exec i s = .next t) (hw : s.mem.wf = true) : t.mem.wf = true := by
  cases i with
  | undocumented op => simp [exec, execUndocumented] at h
  | inc m => cases h; exact State.wf_modify s _ _ hw
  | dec m => cases h; exact State.wf_modify s _ _ hw
  | asl m => cases h; exact State.wf_modify s _ _ hw
  | lsr m => cases h; exact State.wf_modify s _ _ hw
  | rol m => cases h; exact State.wf_modify s _ _ hw
  | ror m => cases h; exact State.wf_modify s _ _ hw
  | sta m => cases h; exact State.wf_write s _ _ hw
  | stx m => cases h; exact State.wf_write s _ _ hw
  | sty m => cases h; exact State.wf_write s _ _ hw
  | pha => cases h; exact State.wf_push s _ hw
  | php => cases h; exact State.wf_push s _ hw
  | jsr w => cases h; exact State.wf_push16 s _ hw
  | brk => cases h; exact State.wf_takeBreak s hw
  | _ => cases h; exact hw

/-- R337: every count is at least 2. -/
theorem two_le_cycles (i : Instr) (s : State) : 2 ≤ cycles i s := by
  have base : ∀ mn mode, 2 ≤ baseCycles mn mode := by
    intro mn mode; cases mode <;> cases mn <;> decide
  unfold cycles cyclesWith
  split
  · next mn mode _ => have := base mn mode; omega
  · exact le_refl 2

/-- R94: the instruction of an admitted opcode byte is a documented one. -/
theorem documented_instrOf (set : Config.AdmittedSet) (op b1 b2 : Byte) (h : admitsOpcode set op = true) :
    (instrOf op b1 b2).documented = true := by
  have build : ∀ mn mode, mode ∈ mn.modes → ((buildInstr mn mode b1 b2).map Instr.documented) = some true := by
    intro mn mode hm
    cases mn <;> simp only [Mnemonic.modes, List.mem_cons, List.not_mem_nil, or_false] at hm <;>
      (try rcases hm with rfl | hm) <;> (try rcases hm with rfl | hm) <;> (try rcases hm with rfl | hm) <;>
      (try rcases hm with rfl | hm) <;> (try rcases hm with rfl | hm) <;> (try rcases hm with rfl | hm) <;>
      (try rcases hm with rfl | hm) <;> subst_vars <;> rfl
  have table : ∀ op : Byte, (match decode8 op with | some (mn, mode) => decide (mode ∈ mn.modes) | none => true) = true := by
    decide +kernel
  unfold admitsOpcode at h
  unfold instrOf
  have ht := table op
  split at h
  · next mn mode hd =>
    rw [hd] at ht
    have hb := build mn mode (by simpa using ht)
    cases hbi : buildInstr mn mode b1 b2 with
    | none => simp [hbi] at hb
    | some i => simpa [hbi] using hb
  · simp at h

end Sys2Proof.Machine
end

