-- ==== Sys2Proof/Laws/PerInstr.lean ====
section
/-! SUPPORT. Laws of every instruction, one lemma per constructor. EncodedLength: a well-formed instruction's encoding has
the length its mode gives it (R93), or the one byte of an undocumented row. -/

namespace Sys2Proof.Laws.EncodedLength

/-- R93: the encoding's length is the mode's. -/
def Statement (i : Instr) : Prop :=
  i.wellFormed = true → (encode i).length = (match i.form with | some (_, mode) => mode.length | none => 1)

theorem adc (m : ReadOperand) : Statement (.adc m) := by
  intro h; rcases m with _ | k
  · rfl
  · cases k <;> first | rfl | exact absurd h Bool.false_ne_true
theorem sbc (m : ReadOperand) : Statement (.sbc m) := by
  intro h; rcases m with _ | k
  · rfl
  · cases k <;> first | rfl | exact absurd h Bool.false_ne_true
theorem cmp (m : ReadOperand) : Statement (.cmp m) := by
  intro h; rcases m with _ | k
  · rfl
  · cases k <;> first | rfl | exact absurd h Bool.false_ne_true
theorem cpx (m : ReadOperand) : Statement (.cpx m) := by
  intro h; rcases m with _ | k
  · rfl
  · cases k <;> first | rfl | exact absurd h Bool.false_ne_true
theorem cpy (m : ReadOperand) : Statement (.cpy m) := by
  intro h; rcases m with _ | k
  · rfl
  · cases k <;> first | rfl | exact absurd h Bool.false_ne_true
theorem inc (m : MemMode) : Statement (.inc m) := by
  intro h; cases m <;> first | rfl | exact absurd h Bool.false_ne_true
theorem dec (m : MemMode) : Statement (.dec m) := by
  intro h; cases m <;> first | rfl | exact absurd h Bool.false_ne_true
theorem inx : Statement .inx := fun _ => rfl
theorem iny : Statement .iny := fun _ => rfl
theorem dex : Statement .dex := fun _ => rfl
theorem dey : Statement .dey := fun _ => rfl
theorem and (m : ReadOperand) : Statement (.and m) := by
  intro h; rcases m with _ | k
  · rfl
  · cases k <;> first | rfl | exact absurd h Bool.false_ne_true
theorem ora (m : ReadOperand) : Statement (.ora m) := by
  intro h; rcases m with _ | k
  · rfl
  · cases k <;> first | rfl | exact absurd h Bool.false_ne_true
theorem eor (m : ReadOperand) : Statement (.eor m) := by
  intro h; rcases m with _ | k
  · rfl
  · cases k <;> first | rfl | exact absurd h Bool.false_ne_true
theorem bit (m : MemMode) : Statement (.bit m) := by
  intro h; cases m <;> first | rfl | exact absurd h Bool.false_ne_true
theorem asl (m : RmwOperand) : Statement (.asl m) := by
  intro h; rcases m with _ | k
  · rfl
  · cases k <;> first | rfl | exact absurd h Bool.false_ne_true
theorem lsr (m : RmwOperand) : Statement (.lsr m) := by
  intro h; rcases m with _ | k
  · rfl
  · cases k <;> first | rfl | exact absurd h Bool.false_ne_true
theorem rol (m : RmwOperand) : Statement (.rol m) := by
  intro h; rcases m with _ | k
  · rfl
  · cases k <;> first | rfl | exact absurd h Bool.false_ne_true
theorem ror (m : RmwOperand) : Statement (.ror m) := by
  intro h; rcases m with _ | k
  · rfl
  · cases k <;> first | rfl | exact absurd h Bool.false_ne_true
theorem lda (m : ReadOperand) : Statement (.lda m) := by
  intro h; rcases m with _ | k
  · rfl
  · cases k <;> first | rfl | exact absurd h Bool.false_ne_true
theorem ldx (m : ReadOperand) : Statement (.ldx m) := by
  intro h; rcases m with _ | k
  · rfl
  · cases k <;> first | rfl | exact absurd h Bool.false_ne_true
theorem ldy (m : ReadOperand) : Statement (.ldy m) := by
  intro h; rcases m with _ | k
  · rfl
  · cases k <;> first | rfl | exact absurd h Bool.false_ne_true
theorem sta (m : MemMode) : Statement (.sta m) := by
  intro h; cases m <;> first | rfl | exact absurd h Bool.false_ne_true
theorem stx (m : MemMode) : Statement (.stx m) := by
  intro h; cases m <;> first | rfl | exact absurd h Bool.false_ne_true
theorem sty (m : MemMode) : Statement (.sty m) := by
  intro h; cases m <;> first | rfl | exact absurd h Bool.false_ne_true
theorem tax : Statement .tax := fun _ => rfl
theorem tay : Statement .tay := fun _ => rfl
theorem txa : Statement .txa := fun _ => rfl
theorem tya : Statement .tya := fun _ => rfl
theorem tsx : Statement .tsx := fun _ => rfl
theorem txs : Statement .txs := fun _ => rfl
theorem pha : Statement .pha := fun _ => rfl
theorem php : Statement .php := fun _ => rfl
theorem pla : Statement .pla := fun _ => rfl
theorem plp : Statement .plp := fun _ => rfl
theorem bpl (d : Byte) : Statement (.bpl d) := fun _ => rfl
theorem bmi (d : Byte) : Statement (.bmi d) := fun _ => rfl
theorem bvc (d : Byte) : Statement (.bvc d) := fun _ => rfl
theorem bvs (d : Byte) : Statement (.bvs d) := fun _ => rfl
theorem bcc (d : Byte) : Statement (.bcc d) := fun _ => rfl
theorem bcs (d : Byte) : Statement (.bcs d) := fun _ => rfl
theorem bne (d : Byte) : Statement (.bne d) := fun _ => rfl
theorem beq (d : Byte) : Statement (.beq d) := fun _ => rfl
theorem jmp (m : JumpOperand) : Statement (.jmp m) := by
  intro _; cases m <;> rfl
theorem jsr (w : Addr) : Statement (.jsr w) := fun _ => rfl
theorem rts : Statement .rts := fun _ => rfl
theorem brk : Statement .brk := fun _ => rfl
theorem rti : Statement .rti := fun _ => rfl
theorem nop : Statement .nop := fun _ => rfl
theorem clc : Statement .clc := fun _ => rfl
theorem cld : Statement .cld := fun _ => rfl
theorem cli : Statement .cli := fun _ => rfl
theorem clv : Statement .clv := fun _ => rfl
theorem sec : Statement .sec := fun _ => rfl
theorem sed : Statement .sed := fun _ => rfl
theorem sei : Statement .sei := fun _ => rfl
theorem undocumented (op : Byte) : Statement (.undocumented op) := fun h => by simp [encode, h, Instr.form]

end Sys2Proof.Laws.EncodedLength
end

