-- ==== Sys2Proof/Laws/Step.lean ====
section
/-! SUPPORT. What one step can do, said once: an inversion lemma for a step that answers a next state, the three ways a step
answers, and runs of several steps. -/

namespace Sys2Proof.Machine

theorem step_of_ready (s : State) (h : s.ready = true) : step s = fetchStep s := by simp [step, h]

theorem step_of_not_ready (s : State) (h : s.ready = false) : step s = engineStep s := by simp [step, h]

/-- R330: the fetch step of an admitted byte. -/
theorem step_fetch (s : State) (h : s.ready = true) (ha : admitsOpcode Config.admittedSet (s.read s.pc) = true) :
    step s = .next (latchFetched s) := by
  simp [step_of_ready s h, fetchStep, ha]

/-- R332: an intermediate cycle. -/
theorem step_intermediate (s : State) (h : s.ready = false) (ha : admitsOpcode Config.admittedSet s.opcode = true)
    (hk : s.cycle + 2 < cycles (latchedInstr s) (startOf s)) : step s = .next (intermediateStep s) := by
  simp [step_of_not_ready s h, engineStep, ha, hk]

/-- R333: the final cycle. -/
theorem step_final (s : State) (h : s.ready = false) (ha : admitsOpcode Config.admittedSet s.opcode = true)
    (hk : s.cycle + 2 = cycles (latchedInstr s) (startOf s)) : step s = finalStep s := by
  simp [step_of_not_ready s h, engineStep, ha, hk]

/-- Everything a step that answers a next state can have done. -/
theorem step_cases (s t : State) (h : step s = .next t) :
    (s.ready = true ∧ admitsOpcode Config.admittedSet (s.read s.pc) = true ∧ t = latchFetched s) ∨
    (s.ready = false ∧ admitsOpcode Config.admittedSet s.opcode = true ∧
      s.cycle + 2 < cycles (latchedInstr s) (startOf s) ∧ t = intermediateStep s) ∨
    (s.ready = false ∧ admitsOpcode Config.admittedSet s.opcode = true ∧
      s.cycle + 2 = cycles (latchedInstr s) (startOf s) ∧
      ∃ u, exec (latchedInstr s) (startOf s) = .next u ∧ t = commit u) := by
  cases hr : s.ready with
  | true =>
    rw [step_of_ready s hr, fetchStep] at h
    split at h
    · next ha => exact .inl ⟨rfl, ha, by cases h; rfl⟩
    · cases h
  | false =>
    rw [step_of_not_ready s hr, engineStep] at h
    split at h
    · next ha =>
      split at h
      · next hk => exact .inr (.inl ⟨rfl, ha, hk, by cases h; rfl⟩)
      · split at h
        · next hk =>
          rw [finalStep] at h
          split at h
          · next u hu => exact .inr (.inr ⟨rfl, ha, hk, u, hu, by cases h; rfl⟩)
          · cases h
          · cases h
        · cases h
    · cases h

/-- R333: the final cycle of an admitted opcode always completes. -/
theorem finalStep_completes (s : State) (ha : admitsOpcode Config.admittedSet s.opcode = true) :
    ∃ u, exec (latchedInstr s) (startOf s) = .next u ∧ finalStep s = .next (commit u) := by
  obtain ⟨u, hu⟩ := exec_completes (latchedInstr s) (startOf s) (documented_instrOf _ _ _ _ ha)
  exact ⟨u, hu, by simp [finalStep, hu]⟩

@[simp] theorem run_zero (s : State) : Host.Core.run core 0 s = .next s := rfl

/-- One step and then k more, of any machine. -/
theorem coreRun_of_next (M : Host.Core) (k : Nat) (s t : M.State) (h : M.step s = .next t) :
    M.run (k + 1) s = M.run k t := by simp [Host.Core.run, h]

theorem coreRun_of_refused (M : Host.Core) (k : Nat) (s : M.State) (r : M.Refusal) (h : M.step s = .refused r) :
    M.run (k + 1) s = .refused r := by simp [Host.Core.run, h]

theorem coreRun_of_fault (M : Host.Core) (k : Nat) (s : M.State) (r : M.Fault) (h : M.step s = .fault r) :
    M.run (k + 1) s = .fault r := by simp [Host.Core.run, h]

theorem run_succ_of_next (k : Nat) (s t : State) (h : step s = .next t) :
    Host.Core.run core (k + 1) s = Host.Core.run core k t := coreRun_of_next core k s t h

theorem run_succ_of_refused (k : Nat) (s : State) (r : Refusal) (h : step s = .refused r) :
    Host.Core.run core (k + 1) s = .refused r := coreRun_of_refused core k s r h

theorem run_succ_of_fault (k : Nat) (s : State) (r : Fault) (h : step s = .fault r) :
    Host.Core.run core (k + 1) s = .fault r := coreRun_of_fault core k s r h

end Sys2Proof.Machine
end

