-- ==== Sys2Proof/Tests/Slice0.lean ====
section
/-! SUPPORT. The model's own tests. Expected results come from the spec: 95_test_vectors.md, R96 and R97 written out byte by
byte, and the examples in the rules. The last part shows, for every obligation that has hypotheses, that states and operands
meet them. -/

namespace Sys2Proof.Tests

open Sys2Proof.Machine

/-- A boundary state with the given A, X, Y, SP, P and PC and the given bytes of memory. -/
def start (a x y sp p : Byte) (pc : Addr) (mem : List (Addr × Byte)) : State :=
  mem.foldl (fun s c => s.write c.1 c.2)
    { State.reset with a := a, x := x, y := y, sp := sp, p := Status.ofByte p, pc := pc }

/-- Cycle count, the registers A, X, Y, SP, P and PC, and the bytes at some addresses, after the instruction whose bytes are
placed at PC. -/
def after (s : State) (bytes : List Byte) (addrs : List Addr) : Option (Nat × List Nat × List Nat) :=
  let b := s.writeBytes s.pc bytes
  match exec (fetchedInstr b) b with
  | .next t => some (cycles (fetchedInstr b) b,
      [t.a.toNat, t.x.toNat, t.y.toNat, t.sp.toNat, t.p.byte.toNat, t.pc.toNat], addrs.map fun a => (t.read a).toNat)
  | _ => none

/-- What one step leaves of the engine: ready, cycle, opcode, PC, and the bytes at some addresses. -/
def stepped (s : State) (addrs : List Addr) : Option (Bool × Nat × Nat × Nat × List Nat) :=
  match step s with
  | .next t => some (t.ready, t.cycle, t.opcode.toNat, t.pc.toNat, addrs.map fun a => (t.read a).toNat)
  | _ => none

def refusalOf (o : Host.Outcome State Fault Refusal) : Option Refusal :=
  match o with
  | .refused r => some r
  | _ => none

/-- The instruction a list of bytes decodes to, where it decodes with nothing left. -/
def decoded (bytes : List Byte) : Option Instr :=
  match decode bytes with
  | .ok (i, []) => some i
  | _ => none

/-! WellFormed: one ill-formed term for each way the check refuses. -/

/-- R201: LDX has no form indexed by X. -/
theorem test_ldx_zpx_is_ill_formed : (Instr.ldx (.mem (.zpx 0x10#8))).wellFormed = false := by decide

/-- R204: STX has no ABSX form. -/
theorem test_stx_absx_is_ill_formed : (Instr.stx (.absx 0x1234#16)).wellFormed = false := by decide

/-- R158: CPX has no ABSX form. -/
theorem test_cpx_absx_is_ill_formed : (Instr.cpx (.mem (.absx 0x1234#16))).wellFormed = false := by decide

/-- R190: ASL has no INDX form. -/
theorem test_asl_indx_is_ill_formed : (Instr.asl (.mem (.indx 0x10#8))).wellFormed = false := by decide

/-- R126: ADC has no ZPY form. -/
theorem test_adc_zpy_is_ill_formed : (Instr.adc (.mem (.zpy 0x10#8))).wellFormed = false := by decide

/-- R96: 0xA9 is LDA, not an undocumented byte. -/
theorem test_documented_byte_is_not_undocumented : (Instr.undocumented 0xA9#8).wellFormed = false := by decide

/-- R104: 0x89 is undocumented (STA has no IMM form). -/
theorem test_0x89_is_undocumented : (Instr.undocumented 0x89#8).wellFormed = true := by decide

/-! Decode: a word of every constructor, written out from R96 and R92. -/

theorem test_decode_arithmetic :
    decoded [0x69#8, 0x7F#8] = some (.adc (.imm 0x7F#8)) ∧
    decoded [0xF5#8, 0x10#8] = some (.sbc (.mem (.zpx 0x10#8))) ∧
    decoded [0xD9#8, 0x34#8, 0x12#8] = some (.cmp (.mem (.absy 0x1234#16))) ∧
    decoded [0xE4#8, 0x20#8] = some (.cpx (.mem (.zp 0x20#8))) ∧
    decoded [0xCC#8, 0xFE#8, 0xFF#8] = some (.cpy (.mem (.abs 0xFFFE#16))) ∧
    decoded [0xFE#8, 0x00#8, 0x02#8] = some (.inc (.absx 0x0200#16)) ∧
    decoded [0xC6#8, 0x10#8] = some (.dec (.zp 0x10#8)) ∧
    decoded [0xE8#8] = some .inx ∧ decoded [0xC8#8] = some .iny ∧
    decoded [0xCA#8] = some .dex ∧ decoded [0x88#8] = some .dey := by
  decide

theorem test_decode_logic :
    decoded [0x21#8, 0x40#8] = some (.and (.mem (.indx 0x40#8))) ∧
    decoded [0x11#8, 0x40#8] = some (.ora (.mem (.indy 0x40#8))) ∧
    decoded [0x5D#8, 0x01#8, 0x80#8] = some (.eor (.mem (.absx 0x8001#16))) ∧
    decoded [0x2C#8, 0x00#8, 0x20#8] = some (.bit (.abs 0x2000#16)) := by
  decide

theorem test_decode_shifts :
    decoded [0x0A#8] = some (.asl .acc) ∧
    decoded [0x56#8, 0x10#8] = some (.lsr (.mem (.zpx 0x10#8))) ∧
    decoded [0x2E#8, 0x34#8, 0x12#8] = some (.rol (.mem (.abs 0x1234#16))) ∧
    decoded [0x7E#8, 0x00#8, 0x03#8] = some (.ror (.mem (.absx 0x0300#16))) := by
  decide

theorem test_decode_load_store_transfer :
    decoded [0xB1#8, 0x40#8] = some (.lda (.mem (.indy 0x40#8))) ∧
    decoded [0xB6#8, 0x10#8] = some (.ldx (.mem (.zpy 0x10#8))) ∧
    decoded [0xBC#8, 0x34#8, 0x12#8] = some (.ldy (.mem (.absx 0x1234#16))) ∧
    decoded [0x81#8, 0x40#8] = some (.sta (.indx 0x40#8)) ∧
    decoded [0x96#8, 0xFF#8] = some (.stx (.zpy 0xFF#8)) ∧
    decoded [0x94#8, 0x20#8] = some (.sty (.zpx 0x20#8)) ∧
    decoded [0xAA#8] = some .tax ∧ decoded [0xA8#8] = some .tay ∧ decoded [0x8A#8] = some .txa ∧
    decoded [0x98#8] = some .tya ∧ decoded [0xBA#8] = some .tsx ∧ decoded [0x9A#8] = some .txs := by
  decide

theorem test_decode_stack :
    decoded [0x48#8] = some .pha ∧ decoded [0x08#8] = some .php ∧
    decoded [0x68#8] = some .pla ∧ decoded [0x28#8] = some .plp := by
  decide

theorem test_decode_control_flow :
    decoded [0x10#8, 0x02#8] = some (.bpl 0x02#8) ∧ decoded [0x30#8, 0xFC#8] = some (.bmi 0xFC#8) ∧
    decoded [0x50#8, 0x10#8] = some (.bvc 0x10#8) ∧ decoded [0x70#8, 0x00#8] = some (.bvs 0x00#8) ∧
    decoded [0x90#8, 0x80#8] = some (.bcc 0x80#8) ∧ decoded [0xB0#8, 0x7F#8] = some (.bcs 0x7F#8) ∧
    decoded [0xD0#8, 0xF9#8] = some (.bne 0xF9#8) ∧ decoded [0xF0#8, 0x01#8] = some (.beq 0x01#8) ∧
    decoded [0x6C#8, 0xFF#8, 0x12#8] = some (.jmp (.ind 0x12FF#16)) ∧
    decoded [0x4C#8, 0x34#8, 0x12#8] = some (.jmp (.abs 0x1234#16)) ∧
    decoded [0x20#8, 0x34#8, 0x12#8] = some (.jsr 0x1234#16) ∧
    decoded [0x60#8] = some .rts ∧ decoded [0x00#8] = some .brk ∧ decoded [0x40#8] = some .rti ∧
    decoded [0xEA#8] = some .nop := by
  decide

theorem test_decode_flags :
    decoded [0x18#8] = some .clc ∧ decoded [0xD8#8] = some .cld ∧ decoded [0x58#8] = some .cli ∧
    decoded [0xB8#8] = some .clv ∧ decoded [0x38#8] = some .sec ∧ decoded [0xF8#8] = some .sed ∧
    decoded [0x78#8] = some .sei := by
  decide

theorem test_decode_undocumented : decoded [0x02#8] = some (.undocumented 0x02#8) := by decide

/-- R93: a list that ends inside an instruction, and an empty one, decode to nothing, by name. -/
theorem test_decode_rejects :
    (match decode [0x4C#8, 0x34#8] with | .error e => some e | .ok _ => none) = some (.truncated 0x4C#8) ∧
    (match decode [] with | .error e => some e | .ok _ => none) = some .noOpcode := by
  decide

/-- R97, R90: bytes of an instruction, and none of an ill-formed one. -/
theorem test_encode :
    encode (.jsr 0x1234#16) = [0x20#8, 0x34#8, 0x12#8] ∧ encode (.lda (.imm 0x00#8)) = [0xA9#8, 0x00#8] ∧
    encode (.rol .acc) = [0x2A#8] ∧ encode (.stx (.absx 0x1234#16)) = [] := by
  decide

/-- The host's numbering: the second byte is bits 15 to 8, and bits at and above nbits are zero. -/
theorem test_decode_table_word :
    decodeTableWord 8 0xEA = some .nop ∧ decodeTableWord 16 0x01A9 = some (.lda (.imm 0x01#8)) ∧
    decodeTableWord 8 0x4C = some (.jmp (.abs 0x0000#16)) ∧ decodeTableWord 8 0xFF = some (.undocumented 0xFF#8) := by
  decide

/-! Arithmetic: vectors of spec/95_test_vectors.md, one instruction each. -/

/-- V1: ADC #$01. S1 first spot-check -/
theorem test_adc_V1 :
    after (start 0x7F#8 0x00#8 0x00#8 0xFD#8 0x24#8 0x8000#16 []) [0x69#8, 0x01#8] [] =
      some (2, [0x80, 0x00, 0x00, 0xFD, 0xE4, 0x8002], []) := by
  decide

/-- V4: ADC #$80. neg+neg overflow -/
theorem test_adc_V4 :
    after (start 0x80#8 0x00#8 0x00#8 0xFD#8 0x24#8 0x8000#16 []) [0x69#8, 0x80#8] [] =
      some (2, [0x00, 0x00, 0x00, 0xFD, 0x67, 0x8002], []) := by
  decide

/-- V9: SBC #$F0. borrow -/
theorem test_sbc_V9 :
    after (start 0x50#8 0x00#8 0x00#8 0xFD#8 0x25#8 0x8000#16 []) [0xE9#8, 0xF0#8] [] =
      some (2, [0x60, 0x00, 0x00, 0xFD, 0x24, 0x8002], []) := by
  decide

/-- V12: SBC #$01. neg-pos overflow -/
theorem test_sbc_V12 :
    after (start 0x80#8 0x00#8 0x00#8 0xFD#8 0x25#8 0x8000#16 []) [0xE9#8, 0x01#8] [] =
      some (2, [0x7F, 0x00, 0x00, 0xFD, 0x65, 0x8002], []) := by
  decide

/-- V16: CMP #$41. less -/
theorem test_cmp_V16 :
    after (start 0x40#8 0x00#8 0x00#8 0xFD#8 0x24#8 0x8000#16 []) [0xC9#8, 0x41#8] [] =
      some (2, [0x40, 0x00, 0x00, 0xFD, 0xA4, 0x8002], []) := by
  decide

/-- V17: CMP #$01. unsigned greater, N from difference -/
theorem test_cmp_V17 :
    after (start 0x80#8 0x00#8 0x00#8 0xFD#8 0x24#8 0x8000#16 []) [0xC9#8, 0x01#8] [] =
      some (2, [0x80, 0x00, 0x00, 0xFD, 0x25, 0x8002], []) := by
  decide

/-- V19: CPX #$10. -/
theorem test_cpx_V19 :
    after (start 0x00#8 0x20#8 0x00#8 0xFD#8 0x24#8 0x8000#16 []) [0xE0#8, 0x10#8] [] =
      some (2, [0x00, 0x20, 0x00, 0xFD, 0x25, 0x8002], []) := by
  decide

/-- V20: CPY $20. -/
theorem test_cpy_V20 :
    after (start 0x00#8 0x00#8 0x00#8 0xFD#8 0x24#8 0x8000#16 [(0x0020#16, 0x00#8)]) [0xC4#8, 0x20#8] [] =
      some (3, [0x00, 0x00, 0x00, 0xFD, 0x27, 0x8002], []) := by
  decide

/-- V21: INC $10. wrap to 0 -/
theorem test_inc_V21 :
    after (start 0x00#8 0x00#8 0x00#8 0xFD#8 0x24#8 0x8000#16 [(0x0010#16, 0xFF#8)]) [0xE6#8, 0x10#8] [0x0010#16] =
      some (5, [0x00, 0x00, 0x00, 0xFD, 0x26, 0x8002], [0x00]) := by
  decide

/-- V23: DEC $10. -/
theorem test_dec_V23 :
    after (start 0x00#8 0x00#8 0x00#8 0xFD#8 0x24#8 0x8000#16 [(0x0010#16, 0x01#8)]) [0xC6#8, 0x10#8] [0x0010#16] =
      some (5, [0x00, 0x00, 0x00, 0xFD, 0x26, 0x8002], [0x00]) := by
  decide

/-- V24: DEC $0800. through the RAM mirror -/
theorem test_dec_V24 :
    after (start 0x00#8 0x00#8 0x00#8 0xFD#8 0x24#8 0x8000#16 [(0x0000#16, 0x00#8)]) [0xCE#8, 0x00#8, 0x08#8] [0x0800#16] =
      some (6, [0x00, 0x00, 0x00, 0xFD, 0xA4, 0x8003], [0xFF]) := by
  decide

/-- V25: INX. -/
theorem test_inx_V25 :
    after (start 0x00#8 0xFF#8 0x00#8 0xFD#8 0x24#8 0x8000#16 []) [0xE8#8] [] =
      some (2, [0x00, 0x00, 0x00, 0xFD, 0x26, 0x8001], []) := by
  decide

/-- V26: INY. -/
theorem test_iny_V26 :
    after (start 0x00#8 0x00#8 0x7F#8 0xFD#8 0x24#8 0x8000#16 []) [0xC8#8] [] =
      some (2, [0x00, 0x00, 0x80, 0xFD, 0xA4, 0x8001], []) := by
  decide

/-- V27: DEX. -/
theorem test_dex_V27 :
    after (start 0x00#8 0x00#8 0x00#8 0xFD#8 0x24#8 0x8000#16 []) [0xCA#8] [] =
      some (2, [0x00, 0xFF, 0x00, 0xFD, 0xA4, 0x8001], []) := by
  decide

/-- V28: DEY. -/
theorem test_dey_V28 :
    after (start 0x00#8 0x00#8 0x01#8 0xFD#8 0x24#8 0x8000#16 []) [0x88#8] [] =
      some (2, [0x00, 0x00, 0x00, 0xFD, 0x26, 0x8001], []) := by
  decide

/-! Logic: vectors of spec/95_test_vectors.md, one instruction each. -/

/-- V29: AND #$3C. -/
theorem test_and_V29 :
    after (start 0xF0#8 0x00#8 0x00#8 0xFD#8 0x24#8 0x8000#16 []) [0x29#8, 0x3C#8] [] =
      some (2, [0x30, 0x00, 0x00, 0xFD, 0x24, 0x8002], []) := by
  decide

/-- V30: AND #$00. -/
theorem test_and_V30 :
    after (start 0xFF#8 0x00#8 0x00#8 0xFD#8 0x24#8 0x8000#16 []) [0x29#8, 0x00#8] [] =
      some (2, [0x00, 0x00, 0x00, 0xFD, 0x26, 0x8002], []) := by
  decide

/-- V31: ORA #$80. -/
theorem test_ora_V31 :
    after (start 0x01#8 0x00#8 0x00#8 0xFD#8 0x24#8 0x8000#16 []) [0x09#8, 0x80#8] [] =
      some (2, [0x81, 0x00, 0x00, 0xFD, 0xA4, 0x8002], []) := by
  decide

/-- V32: EOR #$FF. -/
theorem test_eor_V32 :
    after (start 0xFF#8 0x00#8 0x00#8 0xFD#8 0xE5#8 0x8000#16 []) [0x49#8, 0xFF#8] [] =
      some (2, [0x00, 0x00, 0x00, 0xFD, 0x67, 0x8002], []) := by
  decide

/-- V34: BIT $40. N, V from M; Z from A AND M -/
theorem test_bit_V34 :
    after (start 0x3F#8 0x00#8 0x00#8 0xFD#8 0x24#8 0x8000#16 [(0x0040#16, 0xC0#8)]) [0x24#8, 0x40#8] [] =
      some (3, [0x3F, 0x00, 0x00, 0xFD, 0xE6, 0x8002], []) := by
  decide

/-- V35: BIT $2000. clears N V Z; C kept -/
theorem test_bit_V35 :
    after (start 0xFF#8 0x00#8 0x00#8 0xFD#8 0xE7#8 0x8000#16 [(0x2000#16, 0x00#8)]) [0x2C#8, 0x00#8, 0x20#8] [] =
      some (4, [0xFF, 0x00, 0x00, 0xFD, 0x27, 0x8003], []) := by
  decide

/-! Shifts and rotates: vectors of spec/95_test_vectors.md, one instruction each. -/

/-- V36: ASL A. -/
theorem test_asl_V36 :
    after (start 0x80#8 0x00#8 0x00#8 0xFD#8 0x24#8 0x8000#16 []) [0x0A#8] [] =
      some (2, [0x00, 0x00, 0x00, 0xFD, 0x27, 0x8001], []) := by
  decide

/-- V37: ASL $10. S6 -/
theorem test_asl_V37 :
    after (start 0x00#8 0x00#8 0x00#8 0xFD#8 0x24#8 0x8000#16 [(0x0010#16, 0x81#8)]) [0x06#8, 0x10#8] [0x0010#16] =
      some (5, [0x00, 0x00, 0x00, 0xFD, 0x25, 0x8002], [0x02]) := by
  decide

/-- V38: LSR A. -/
theorem test_lsr_V38 :
    after (start 0x01#8 0x00#8 0x00#8 0xFD#8 0x24#8 0x8000#16 []) [0x4A#8] [] =
      some (2, [0x00, 0x00, 0x00, 0xFD, 0x27, 0x8001], []) := by
  decide

/-- V39: LSR $10,X. ZPX wrap -/
theorem test_lsr_V39 :
    after (start 0x00#8 0xF5#8 0x00#8 0xFD#8 0x24#8 0x8000#16 [(0x0005#16, 0xFF#8)]) [0x56#8, 0x10#8] [0x0005#16] =
      some (6, [0x00, 0xF5, 0x00, 0xFD, 0x25, 0x8002], [0x7F]) := by
  decide

/-- V40: ROL A. -/
theorem test_rol_V40 :
    after (start 0x80#8 0x00#8 0x00#8 0xFD#8 0x24#8 0x8000#16 []) [0x2A#8] [] =
      some (2, [0x00, 0x00, 0x00, 0xFD, 0x27, 0x8001], []) := by
  decide

/-- V41: ROL A. -/
theorem test_rol_V41 :
    after (start 0x40#8 0x00#8 0x00#8 0xFD#8 0x25#8 0x8000#16 []) [0x2A#8] [] =
      some (2, [0x81, 0x00, 0x00, 0xFD, 0xA4, 0x8001], []) := by
  decide

/-- V42: ROR A. -/
theorem test_ror_V42 :
    after (start 0x01#8 0x00#8 0x00#8 0xFD#8 0x24#8 0x8000#16 []) [0x6A#8] [] =
      some (2, [0x00, 0x00, 0x00, 0xFD, 0x27, 0x8001], []) := by
  decide

/-- V43: ROR $0300,X. C into bit 7 -/
theorem test_ror_V43 :
    after (start 0x00#8 0x01#8 0x00#8 0xFD#8 0x25#8 0x8000#16 [(0x0301#16, 0x00#8)]) [0x7E#8, 0x00#8, 0x03#8] [0x0301#16] =
      some (7, [0x00, 0x01, 0x00, 0xFD, 0xA4, 0x8003], [0x80]) := by
  decide

/-! Loads, stores and transfers: vectors of spec/95_test_vectors.md, one instruction each. -/

/-- V50: LDA ($FF,X). pointer high byte from 0x0000 -/
theorem test_lda_V50 :
    after (start 0x00#8 0x00#8 0x00#8 0xFD#8 0x24#8 0x8000#16 [(0x00FF#16, 0x34#8), (0x0000#16, 0x12#8), (0x1234#16, 0x99#8)]) [0xA1#8, 0xFF#8] [] =
      some (6, [0x99, 0x00, 0x00, 0xFD, 0xA4, 0x8002], []) := by
  decide

/-- V53: LDA ($40),Y. page cross 0x02F8+0x10 -/
theorem test_lda_V53 :
    after (start 0x00#8 0x00#8 0x10#8 0xFD#8 0x24#8 0x8000#16 [(0x0040#16, 0xF8#8), (0x0041#16, 0x02#8), (0x0308#16, 0x5A#8)]) [0xB1#8, 0x40#8] [] =
      some (5, [0x5A, 0x00, 0x10, 0xFD, 0x24, 0x8002], []) := by
  decide

/-- V56: LDX $10,Y. ZPY wrap -/
theorem test_ldx_V56 :
    after (start 0x00#8 0x55#8 0xF0#8 0xFD#8 0x24#8 0x8000#16 [(0x0000#16, 0x00#8)]) [0xB6#8, 0x10#8] [] =
      some (4, [0x00, 0x00, 0xF0, 0xFD, 0x26, 0x8002], []) := by
  decide

/-- V57: LDY #$FF. -/
theorem test_ldy_V57 :
    after (start 0x00#8 0x00#8 0x00#8 0xFD#8 0x24#8 0x8000#16 []) [0xA0#8, 0xFF#8] [] =
      some (2, [0x00, 0x00, 0xFF, 0xFD, 0xA4, 0x8002], []) := by
  decide

/-- V60: STA ($10),Y. EA wraps to 0x0000 -/
theorem test_sta_V60 :
    after (start 0x01#8 0x00#8 0x01#8 0xFD#8 0x24#8 0x8000#16 [(0x0010#16, 0xFF#8), (0x0011#16, 0xFF#8)]) [0x91#8, 0x10#8] [0x0000#16] =
      some (6, [0x01, 0x00, 0x01, 0xFD, 0x24, 0x8002], [0x01]) := by
  decide

/-- V61: STX $FF,Y. -/
theorem test_stx_V61 :
    after (start 0x00#8 0x07#8 0x01#8 0xFD#8 0x24#8 0x8000#16 []) [0x96#8, 0xFF#8] [0x0000#16] =
      some (4, [0x00, 0x07, 0x01, 0xFD, 0x24, 0x8002], [0x07]) := by
  decide

/-- V62: STY $2008. = storage 0x2000 -/
theorem test_sty_V62 :
    after (start 0x00#8 0x00#8 0x33#8 0xFD#8 0x24#8 0x8000#16 []) [0x8C#8, 0x08#8, 0x20#8] [0x2008#16] =
      some (4, [0x00, 0x00, 0x33, 0xFD, 0x24, 0x8003], [0x33]) := by
  decide

/-- V63: STA $8000. ROM region is writable; overwrites its own opcode -/
theorem test_sta_V63 :
    after (start 0xEA#8 0x00#8 0x00#8 0xFD#8 0x24#8 0x8000#16 []) [0x8D#8, 0x00#8, 0x80#8] [0x8000#16] =
      some (4, [0xEA, 0x00, 0x00, 0xFD, 0x24, 0x8003], [0xEA]) := by
  decide

/-- V64: TAX. -/
theorem test_tax_V64 :
    after (start 0x80#8 0x00#8 0x00#8 0xFD#8 0x24#8 0x8000#16 []) [0xAA#8] [] =
      some (2, [0x80, 0x80, 0x00, 0xFD, 0xA4, 0x8001], []) := by
  decide

/-- V65: TAY. -/
theorem test_tay_V65 :
    after (start 0x00#8 0x00#8 0x55#8 0xFD#8 0x24#8 0x8000#16 []) [0xA8#8] [] =
      some (2, [0x00, 0x00, 0x00, 0xFD, 0x26, 0x8001], []) := by
  decide

/-- V66: TXA. -/
theorem test_txa_V66 :
    after (start 0x00#8 0x01#8 0x00#8 0xFD#8 0xA6#8 0x8000#16 []) [0x8A#8] [] =
      some (2, [0x01, 0x01, 0x00, 0xFD, 0x24, 0x8001], []) := by
  decide

/-- V67: TYA. -/
theorem test_tya_V67 :
    after (start 0x00#8 0x00#8 0xF0#8 0xFD#8 0x24#8 0x8000#16 []) [0x98#8] [] =
      some (2, [0xF0, 0x00, 0xF0, 0xFD, 0xA4, 0x8001], []) := by
  decide

/-- V68: TSX. -/
theorem test_tsx_V68 :
    after (start 0x00#8 0x55#8 0x00#8 0x00#8 0x24#8 0x8000#16 []) [0xBA#8] [] =
      some (2, [0x00, 0x00, 0x00, 0x00, 0x26, 0x8001], []) := by
  decide

/-- V69: TXS. no flags -/
theorem test_txs_V69 :
    after (start 0x00#8 0x00#8 0x00#8 0xFD#8 0x26#8 0x8000#16 []) [0x9A#8] [] =
      some (2, [0x00, 0x00, 0x00, 0x00, 0x26, 0x8001], []) := by
  decide

/-! Stack: vectors of spec/95_test_vectors.md, one instruction each. -/

/-- V70: PHA. -/
theorem test_pha_V70 :
    after (start 0x12#8 0x00#8 0x00#8 0xFD#8 0x24#8 0x8000#16 []) [0x48#8] [0x01FD#16] =
      some (3, [0x12, 0x00, 0x00, 0xFC, 0x24, 0x8001], [0x12]) := by
  decide

/-- V71: PHA. SP wraps to 0xFF -/
theorem test_pha_V71 :
    after (start 0x12#8 0x00#8 0x00#8 0x00#8 0x24#8 0x8000#16 []) [0x48#8] [0x0100#16] =
      some (3, [0x12, 0x00, 0x00, 0xFF, 0x24, 0x8001], [0x12]) := by
  decide

/-- V72: PHP. pushes bits 5 and 4 set -/
theorem test_php_V72 :
    after (start 0x00#8 0x00#8 0x00#8 0xFD#8 0xE7#8 0x8000#16 []) [0x08#8] [0x01FD#16] =
      some (3, [0x00, 0x00, 0x00, 0xFC, 0xE7, 0x8001], [0xF7]) := by
  decide

/-- V73: PLA. -/
theorem test_pla_V73 :
    after (start 0x55#8 0x00#8 0x00#8 0xFC#8 0x24#8 0x8000#16 [(0x01FD#16, 0x00#8)]) [0x68#8] [] =
      some (4, [0x00, 0x00, 0x00, 0xFD, 0x26, 0x8001], []) := by
  decide

/-- V74: PLA. SP wraps to 0x00 -/
theorem test_pla_V74 :
    after (start 0x00#8 0x00#8 0x00#8 0xFF#8 0x24#8 0x8000#16 [(0x0100#16, 0x80#8)]) [0x68#8] [] =
      some (4, [0x80, 0x00, 0x00, 0x00, 0xA4, 0x8001], []) := by
  decide

/-- V75: PLP. bit 4 discarded -/
theorem test_plp_V75 :
    after (start 0x00#8 0x00#8 0x00#8 0xFC#8 0x24#8 0x8000#16 [(0x01FD#16, 0xFF#8)]) [0x28#8] [] =
      some (4, [0x00, 0x00, 0x00, 0xFD, 0xEF, 0x8001], []) := by
  decide

/-- V76: PLP. -/
theorem test_plp_V76 :
    after (start 0x00#8 0x00#8 0x00#8 0xFC#8 0xE7#8 0x8000#16 [(0x01FD#16, 0x00#8)]) [0x28#8] [] =
      some (4, [0x00, 0x00, 0x00, 0xFD, 0x20, 0x8001], []) := by
  decide

/-! Control flow: vectors of spec/95_test_vectors.md, one instruction each. -/

/-- V77: BPL *+4. taken -/
theorem test_bpl_V77 :
    after (start 0x00#8 0x00#8 0x00#8 0xFD#8 0x24#8 0x8000#16 []) [0x10#8, 0x02#8] [] =
      some (3, [0x00, 0x00, 0x00, 0xFD, 0x24, 0x8004], []) := by
  decide

/-- V78: BPL *+4. not taken -/
theorem test_bpl_V78 :
    after (start 0x00#8 0x00#8 0x00#8 0xFD#8 0xA4#8 0x8000#16 []) [0x10#8, 0x02#8] [] =
      some (2, [0x00, 0x00, 0x00, 0xFD, 0xA4, 0x8002], []) := by
  decide

/-- V79: BMI *+4. taken -/
theorem test_bmi_V79 :
    after (start 0x00#8 0x00#8 0x00#8 0xFD#8 0xA4#8 0x8000#16 []) [0x30#8, 0x02#8] [] =
      some (3, [0x00, 0x00, 0x00, 0xFD, 0xA4, 0x8004], []) := by
  decide

/-- V80: BMI *+4. not taken -/
theorem test_bmi_V80 :
    after (start 0x00#8 0x00#8 0x00#8 0xFD#8 0x24#8 0x8000#16 []) [0x30#8, 0x02#8] [] =
      some (2, [0x00, 0x00, 0x00, 0xFD, 0x24, 0x8002], []) := by
  decide

/-- V81: BVC *+4. taken -/
theorem test_bvc_V81 :
    after (start 0x00#8 0x00#8 0x00#8 0xFD#8 0x24#8 0x8000#16 []) [0x50#8, 0x02#8] [] =
      some (3, [0x00, 0x00, 0x00, 0xFD, 0x24, 0x8004], []) := by
  decide

/-- V82: BVC *+4. not taken -/
theorem test_bvc_V82 :
    after (start 0x00#8 0x00#8 0x00#8 0xFD#8 0x64#8 0x8000#16 []) [0x50#8, 0x02#8] [] =
      some (2, [0x00, 0x00, 0x00, 0xFD, 0x64, 0x8002], []) := by
  decide

/-- V83: BVS *+4. taken -/
theorem test_bvs_V83 :
    after (start 0x00#8 0x00#8 0x00#8 0xFD#8 0x64#8 0x8000#16 []) [0x70#8, 0x02#8] [] =
      some (3, [0x00, 0x00, 0x00, 0xFD, 0x64, 0x8004], []) := by
  decide

/-- V84: BVS *+4. not taken -/
theorem test_bvs_V84 :
    after (start 0x00#8 0x00#8 0x00#8 0xFD#8 0x24#8 0x8000#16 []) [0x70#8, 0x02#8] [] =
      some (2, [0x00, 0x00, 0x00, 0xFD, 0x24, 0x8002], []) := by
  decide

/-- V86: BCC *+4. not taken -/
theorem test_bcc_V86 :
    after (start 0x00#8 0x00#8 0x00#8 0xFD#8 0x25#8 0x8000#16 []) [0x90#8, 0x02#8] [] =
      some (2, [0x00, 0x00, 0x00, 0xFD, 0x25, 0x8002], []) := by
  decide

/-- V88: BCS *+4. not taken -/
theorem test_bcs_V88 :
    after (start 0x00#8 0x00#8 0x00#8 0xFD#8 0x24#8 0x8000#16 []) [0xB0#8, 0x02#8] [] =
      some (2, [0x00, 0x00, 0x00, 0xFD, 0x24, 0x8002], []) := by
  decide

/-- V90: BNE *+4. not taken -/
theorem test_bne_V90 :
    after (start 0x00#8 0x00#8 0x00#8 0xFD#8 0x26#8 0x8000#16 []) [0xD0#8, 0x02#8] [] =
      some (2, [0x00, 0x00, 0x00, 0xFD, 0x26, 0x8002], []) := by
  decide

/-- V92: BEQ *+4. not taken -/
theorem test_beq_V92 :
    after (start 0x00#8 0x00#8 0x00#8 0xFD#8 0x24#8 0x8000#16 []) [0xF0#8, 0x02#8] [] =
      some (2, [0x00, 0x00, 0x00, 0xFD, 0x24, 0x8002], []) := by
  decide

/-- V93: BNE *-5 (at 0x8005). backward -/
theorem test_bne_V93 :
    after (start 0x00#8 0x00#8 0x00#8 0xFD#8 0x24#8 0x8005#16 []) [0xD0#8, 0xF9#8] [] =
      some (3, [0x00, 0x00, 0x00, 0xFD, 0x24, 0x8000], []) := by
  decide

/-- V94: BCC *-126. most negative offset -/
theorem test_bcc_V94 :
    after (start 0x00#8 0x00#8 0x00#8 0xFD#8 0x24#8 0x8000#16 []) [0x90#8, 0x80#8] [] =
      some (3, [0x00, 0x00, 0x00, 0xFD, 0x24, 0x7F82], []) := by
  decide

/-- V95: BCS *+129 (at 0x80F0). target on the next page, still 3 cycles -/
theorem test_bcs_V95 :
    after (start 0x00#8 0x00#8 0x00#8 0xFD#8 0x25#8 0x80F0#16 []) [0xB0#8, 0x7F#8] [] =
      some (3, [0x00, 0x00, 0x00, 0xFD, 0x25, 0x8171], []) := by
  decide

/-- V96: BEQ at 0xFFFE. PCn wraps to 0x0000 -/
theorem test_beq_V96 :
    after (start 0x00#8 0x00#8 0x00#8 0xFD#8 0x26#8 0xFFFE#16 []) [0xF0#8, 0x01#8] [] =
      some (3, [0x00, 0x00, 0x00, 0xFD, 0x26, 0x0001], []) := by
  decide

/-- V97: JMP $1234. -/
theorem test_jmp_V97 :
    after (start 0x00#8 0x00#8 0x00#8 0xFD#8 0x24#8 0x8000#16 []) [0x4C#8, 0x34#8, 0x12#8] [] =
      some (3, [0x00, 0x00, 0x00, 0xFD, 0x24, 0x1234], []) := by
  decide

/-- V98: JMP ($12FF). NMOS page wrap -/
theorem test_jmp_V98 :
    after (start 0x00#8 0x00#8 0x00#8 0xFD#8 0x24#8 0x8000#16 [(0x12FF#16, 0x00#8), (0x1200#16, 0x90#8), (0x1300#16, 0x50#8)]) [0x6C#8, 0xFF#8, 0x12#8] [] =
      some (5, [0x00, 0x00, 0x00, 0xFD, 0x24, 0x9000], []) := by
  decide

/-- V100: JSR $1234. S5 -/
theorem test_jsr_V100 :
    after (start 0x00#8 0x00#8 0x00#8 0xFD#8 0x24#8 0x8000#16 []) [0x20#8, 0x34#8, 0x12#8] [0x01FD#16, 0x01FC#16] =
      some (6, [0x00, 0x00, 0x00, 0xFB, 0x24, 0x1234], [0x80, 0x02]) := by
  decide

/-- V101: JSR $1234. stack wrap -/
theorem test_jsr_V101 :
    after (start 0x00#8 0x00#8 0x00#8 0x00#8 0x24#8 0x8000#16 []) [0x20#8, 0x34#8, 0x12#8] [0x0100#16, 0x01FF#16] =
      some (6, [0x00, 0x00, 0x00, 0xFE, 0x24, 0x1234], [0x80, 0x02]) := by
  decide

/-- V102: RTS. -/
theorem test_rts_V102 :
    after (start 0x00#8 0x00#8 0x00#8 0xFB#8 0x24#8 0x8000#16 [(0x01FC#16, 0x02#8), (0x01FD#16, 0x80#8)]) [0x60#8] [] =
      some (6, [0x00, 0x00, 0x00, 0xFD, 0x24, 0x8003], []) := by
  decide

/-- V103: RTS. pulls wrap; 0xFFFF+1 -/
theorem test_rts_V103 :
    after (start 0x00#8 0x00#8 0x00#8 0xFE#8 0x24#8 0x8000#16 [(0x01FF#16, 0xFF#8), (0x0100#16, 0xFF#8)]) [0x60#8] [] =
      some (6, [0x00, 0x00, 0x00, 0x00, 0x24, 0x0000], []) := by
  decide

/-- V104: BRK. -/
theorem test_brk_V104 :
    after (start 0x00#8 0x00#8 0x00#8 0xFD#8 0x24#8 0x8000#16 [(0xFFFE#16, 0x00#8), (0xFFFF#16, 0x90#8)]) [0x00#8] [0x01FD#16, 0x01FC#16, 0x01FB#16] =
      some (7, [0x00, 0x00, 0x00, 0xFA, 0x24, 0x9000], [0x80, 0x02, 0x34]) := by
  decide

/-- V105: BRK. D kept, I set -/
theorem test_brk_V105 :
    after (start 0x00#8 0x00#8 0x00#8 0xFD#8 0xEB#8 0x8000#16 [(0xFFFE#16, 0x00#8), (0xFFFF#16, 0x90#8)]) [0x00#8] [0x01FD#16, 0x01FC#16, 0x01FB#16] =
      some (7, [0x00, 0x00, 0x00, 0xFA, 0xEF, 0x9000], [0x80, 0x02, 0xFB]) := by
  decide

/-- V106: RTI. -/
theorem test_rti_V106 :
    after (start 0x00#8 0x00#8 0x00#8 0xFA#8 0x24#8 0x8000#16 [(0x01FB#16, 0x34#8), (0x01FC#16, 0x02#8), (0x01FD#16, 0x80#8)]) [0x40#8] [] =
      some (6, [0x00, 0x00, 0x00, 0xFD, 0x24, 0x8002], []) := by
  decide

/-- V107: RTI. I cleared from stack -/
theorem test_rti_V107 :
    after (start 0x00#8 0x00#8 0x00#8 0xFA#8 0x24#8 0x8000#16 [(0x01FB#16, 0xC3#8), (0x01FC#16, 0x00#8), (0x01FD#16, 0x90#8)]) [0x40#8] [] =
      some (6, [0x00, 0x00, 0x00, 0xFD, 0xE3, 0x9000], []) := by
  decide

/-- V108: NOP. -/
theorem test_nop_V108 :
    after (start 0x00#8 0x00#8 0x00#8 0xFD#8 0x24#8 0x8000#16 []) [0xEA#8] [] =
      some (2, [0x00, 0x00, 0x00, 0xFD, 0x24, 0x8001], []) := by
  decide

/-! Flags: vectors of spec/95_test_vectors.md, one instruction each. -/

/-- V109: CLC. -/
theorem test_clc_V109 :
    after (start 0x00#8 0x00#8 0x00#8 0xFD#8 0x25#8 0x8000#16 []) [0x18#8] [] =
      some (2, [0x00, 0x00, 0x00, 0xFD, 0x24, 0x8001], []) := by
  decide

/-- V110: CLD. -/
theorem test_cld_V110 :
    after (start 0x00#8 0x00#8 0x00#8 0xFD#8 0x2C#8 0x8000#16 []) [0xD8#8] [] =
      some (2, [0x00, 0x00, 0x00, 0xFD, 0x24, 0x8001], []) := by
  decide

/-- V111: CLI. -/
theorem test_cli_V111 :
    after (start 0x00#8 0x00#8 0x00#8 0xFD#8 0x24#8 0x8000#16 []) [0x58#8] [] =
      some (2, [0x00, 0x00, 0x00, 0xFD, 0x20, 0x8001], []) := by
  decide

/-- V112: CLV. -/
theorem test_clv_V112 :
    after (start 0x00#8 0x00#8 0x00#8 0xFD#8 0x64#8 0x8000#16 []) [0xB8#8] [] =
      some (2, [0x00, 0x00, 0x00, 0xFD, 0x24, 0x8001], []) := by
  decide

/-- V113: SEC. -/
theorem test_sec_V113 :
    after (start 0x00#8 0x00#8 0x00#8 0xFD#8 0x24#8 0x8000#16 []) [0x38#8] [] =
      some (2, [0x00, 0x00, 0x00, 0xFD, 0x25, 0x8001], []) := by
  decide

/-- V114: SED. -/
theorem test_sed_V114 :
    after (start 0x00#8 0x00#8 0x00#8 0xFD#8 0x24#8 0x8000#16 []) [0xF8#8] [] =
      some (2, [0x00, 0x00, 0x00, 0xFD, 0x2C, 0x8001], []) := by
  decide

/-- V115: SEI. -/
theorem test_sei_V115 :
    after (start 0x00#8 0x00#8 0x00#8 0xFD#8 0x20#8 0x8000#16 []) [0x78#8] [] =
      some (2, [0x00, 0x00, 0x00, 0xFD, 0x24, 0x8001], []) := by
  decide
/-! Refusals: vectors V116 to V118, and construction. -/

/-- V116, V118: no state changes; the refusal names the byte and its address. -/
theorem test_undocumented_V116 :
    refusalOf (step (start 0#8 0#8 0#8 0xFD#8 0x24#8 0x8000#16 [(0x8000#16, 0x02#8)])) =
      some (.undocumentedOpcode 0x02#8 0x8000#16) := by
  decide

theorem test_undocumented_V118 : refusalOf (exec (.undocumented 0x80#8) State.reset) =
    some (.undocumentedOpcode 0x80#8 0x8000#16) := by
  decide

/-- R68, D20: an image one byte longer than the 32 KB above 0x8000 is refused. -/
theorem test_image_too_long :
    refusalOf (construct Config.resetRegs Config.resetPcSource (List.replicate 0x8001 0xEA#8)) =
      some (.loadOutOfRange 0x8000#16 0x8001) := by
  unfold construct
  rw [List.length_replicate]
  decide

/-! The step engine: traces S4 and S6 of 95_test_vectors.md, step by step, and the placed word. -/

/-- S6, step 1. -/
theorem test_fetch_S6 :
    stepped (start 0#8 0#8 0#8 0xFD#8 0x24#8 0x8000#16 [(0x0010#16, 0x81#8), (0x8000#16, 0x06#8), (0x8001#16, 0x10#8)])
      [0x0010#16] = some (false, 0, 0x06, 0x8001, [0x81]) := by
  decide

/-- S6 after its fetch step, at a cycle. -/
def midShift (cycle : Nat) : State :=
  { start 0#8 0#8 0#8 0xFD#8 0x24#8 0x8001#16 [(0x0010#16, 0x81#8), (0x8000#16, 0x06#8), (0x8001#16, 0x10#8)] with
    ready := false, opcode := 0x06#8, cycle := cycle }

/-- S6, step 4: memory still reads 0x81. -/
theorem test_intermediate_S6 : stepped (midShift 2) [0x0010#16] = some (false, 3, 0x06, 0x8001, [0x81]) := by decide

/-- S6, step 5: the write lands on the final cycle. -/
theorem test_final_S6 : stepped (midShift 3) [0x0010#16] = some (true, 0, 0x06, 0x8002, [0x02]) := by decide

/-- A word placed by withFetchWord runs in the very next step. -/
theorem test_placed_word : stepped (State.reset.withFetchWord 24 0x12344C) [] = some (true, 0, 0x4C, 0x1234, []) := by
  decide

/-! The parameters of R6 at their other values. -/

/-- V48 and V47. -/
theorem test_page_cross_V48 :
    cyclesWith true (.lda (.mem (.absx 0x12F0#16))) (start 0#8 0x20#8 0#8 0xFD#8 0x24#8 0x8000#16 []) = 5 ∧
    cyclesWith false (.lda (.mem (.absx 0x12F0#16))) (start 0#8 0x20#8 0#8 0xFD#8 0x24#8 0x8000#16 []) = 4 := by
  decide

/-- V52 and V46. -/
theorem test_zp_wrap_V52 : zpIndexed false 0xFF#8 0x02#8 = 0x0101#16 ∧ zpIndexed true 0xFF#8 0x02#8 = 0x0001#16 := by decide

/-- V59 and V58. -/
theorem test_ram_mask_V59 :
    storageIndex 0x08FF#16 0x0800#16 = 0x0800 ∧ storageIndex 0x07FF#16 0x0800#16 = 0x0000 := by
  decide

/-- V99 and V98. -/
theorem test_jmp_page_V99 :
    let s := start 0#8 0#8 0#8 0xFD#8 0x24#8 0x8000#16 [(0x12FF#16, 0x00#8), (0x1200#16, 0x90#8), (0x1300#16, 0x50#8)]
    indirectTarget false s 0x12FF#16 = 0x5000#16 ∧ indirectTarget true s 0x12FF#16 = 0x9000#16 := by
  decide

/-- R99, R100: 41 mnemonics are named by the source; INX is not one of them. -/
theorem test_source_named :
    admitsOpcode .sourceNamed 0xA9#8 = true ∧ admitsOpcode .sourceNamed 0xE8#8 = false ∧
    admitsOpcode .documented151 0xE8#8 = true ∧ admitsOpcode .documented151 0x02#8 = false := by
  decide

/-! Memory in canonical form, and mirrors (S3). -/

theorem test_mirror_S3 :
    let s := State.reset.write 0x1234#16 0x5A#8
    s.read 0x0234#16 = 0x5A#8 ∧ s.read 0x0A34#16 = 0x5A#8 ∧ (s.write 0x3FFF#16 0x77#8).read 0x200F#16 = 0x77#8 := by
  decide

theorem test_memory_form :
    ((State.reset.write 0x8001#16 0x01#8).write 0x0001#16 0x02#8).mem =
      { cells := [(0x0001, 0x02#8), (0x8001, 0x01#8)] } ∧
    ((State.reset.write 0x8001#16 0x01#8).write 0x0001#16 0x02#8).mem.wf = true ∧
    ({ cells := [(0x0801, 0x00#8)] } : Memory).wf = false ∧
    ({ cells := [(0x0002, 0x00#8), (0x0001, 0x00#8)] } : Memory).wf = false := by
  decide

/-! Witnesses: for every obligation with hypotheses, states and operands that meet all of them together, at the ends of the
ranges its clauses name. -/

/-- A boundary state at 0x8000 with an instruction's bytes placed there. -/
def placed (bytes : List Byte) : State := State.reset.writeBytes 0x8000#16 bytes

/-- The state after the fetch step of an instruction placed at 0x8000, at a cycle. -/
def inside (bytes : List Byte) (cycle : Nat) : State :=
  { latchFetched (placed bytes) with cycle := cycle }

theorem test_witness_DecodeOfEncodeIsTheInstruction :
    (Instr.jsr 0xFFFF#16).wellFormed = true ∧ (Instr.lda (.mem (.indy 0x00#8))).wellFormed = true ∧
    (Instr.undocumented 0xFF#8).wellFormed = true := by
  decide

theorem test_witness_EncodeOfDecodeIsTheBytes :
    decode [0x4C#8, 0x34#8, 0x12#8, 0xEA#8] = .ok (.jmp (.abs 0x1234#16), [0xEA#8]) ∧
    decode [0x02#8] = .ok (.undocumented 0x02#8, []) :=
  ⟨rfl, rfl⟩

/-- An opcode of each mode with a 16-bit operand, and a construction that reads the reset vector from the empty image and from
one that fills the 32 KB. -/
theorem test_witness_MultiByteQuantitiesAreLittleEndian :
    decode8 0x20#8 = some (.jsr, .abs) ∧ decode8 0xFE#8 = some (.inc, .absx) ∧ decode8 0xBE#8 = some (.ldx, .absy) ∧
    decode8 0x6C#8 = some (.jmp, .ind) ∧ (∃ s, construct Config.resetRegs .vector [] = .next s) ∧
    ∃ s, construct Config.resetRegs .vector (List.replicate 0x8000 0xEA#8) = .next s := by
  refine ⟨by decide, by decide, by decide, by decide, ⟨_, rfl⟩, _, if_neg ?_⟩
  rw [List.length_replicate]
  decide

/-- R92: the operand word is assembled low byte first, in a mode of each kind. -/
theorem test_operand_word :
    operandWord (instrOf 0xBE#8 0x34#8 0x12#8) = some 0x1234#16 ∧ operandWord (instrOf 0x6C#8 0xFF#8 0x12#8) = some 0x12FF#16 ∧
    operandWord (instrOf 0xB1#8 0x40#8 0x12#8) = none := by
  decide

/-- The ends of the three regions, and the index each clause gives there. -/
theorem test_witness_AddressDecodeMirrorsRamAndPpu :
    busIndex 0x0000#16 = 0 ∧ busIndex 0x1FFF#16 = 0x7FF ∧ busIndex 0x2000#16 = 0x2000 ∧ busIndex 0x3FFF#16 = 0x2007 ∧
    busIndex 0x4000#16 = 0x4000 ∧ busIndex 0xFFFF#16 = 0xFFFF := by
  decide

theorem test_witness_PpuRegistersAliasEveryEighthAddress :
    let a : Addr := 0x2000#16
    let b : Addr := 0x3FF8#16
    0x2000 ≤ a.toNat ∧ a.toNat ≤ 0x3FFF ∧ 0x2000 ≤ b.toNat ∧ b.toNat ≤ 0x3FFF ∧ a.toNat % 8 = b.toNat % 8 ∧
      (0x3FFF#16 : Addr).toNat % 8 ≠ a.toNat % 8 := by
  decide

theorem test_witness_RamMirrorsUnderEitherMask :
    (0x1FFF#16 : Addr).toNat ≤ 0x1FFF ∧ (0x07FF#16 : Addr).toNat ≤ 0x1FFF ∧ busIndex 0x1FFF#16 = busIndex 0x07FF#16 ∧
    storageIndex 0x08FF#16 0x07FF#16 = 0xFF ∧ storageIndex 0x08FF#16 0x1FFF#16 = 0x8FF := by
  decide

/-- At both ends of the region. -/
theorem test_witness_RomRegionIsWritableAndFetched :
    State.reset.ready = true ∧ admitsOpcode Config.admittedSet 0xEA#8 = true ∧
    0x8000 ≤ (0x8000#16 : Addr).toNat ∧ 0x8000 ≤ (0xFFFF#16 : Addr).toNat := by
  decide

/-- The two clauses, each with V set and with V clear. -/
theorem test_witness_OverflowMeansOutOfSignedRange :
    (∃ t, exec (.adc (.imm 0x01#8)) { State.reset with a := 0x7F#8 } = .next t ∧ t.p.v = true) ∧
    (∃ t, exec (.adc (.imm 0xFF#8)) { State.reset with a := 0x80#8, p := Status.ofByte 0x01#8 } = .next t ∧ t.p.v = false) ∧
    (∃ t, exec (.sbc (.imm 0x01#8)) { State.reset with a := 0x80#8 } = .next t ∧ t.p.v = true) ∧
    ∃ t, exec (.sbc (.imm 0x80#8)) { State.reset with a := 0x7F#8 } = .next t ∧ t.p.v = true :=
  ⟨⟨_, rfl, rfl⟩, ⟨_, rfl, rfl⟩, ⟨_, rfl, rfl⟩, ⟨_, rfl, rfl⟩⟩

/-- From a stack pointer whose pushes wrap. -/
theorem test_witness_ReturnsUndoCallsAndTraps :
    (∃ t, exec (.jsr 0x1234#16) { State.reset with sp := 0x00#8 } = .next t) ∧
    ∃ t, exec .brk { State.reset with sp := 0x01#8 } = .next t :=
  ⟨⟨_, rfl⟩, ⟨_, rfl⟩⟩

theorem test_witness_PullsUndoPushes :
    (∃ t, exec .pha { State.reset with sp := 0x00#8 } = .next t) ∧ ∃ t, exec .php State.reset = .next t :=
  ⟨⟨_, rfl⟩, ⟨_, rfl⟩⟩

theorem test_witness_UndocumentedBytesAreRefused :
    let s := placed [0x02#8]
    s.ready = true ∧ decode8 (s.read s.pc) = none := by
  decide

/-- An untaken branch at the top of memory, and an instruction of three bytes. -/
theorem test_witness_SequentialInstructionsEndAtNext :
    let s : State := { State.reset with pc := 0xFFFE#16 }
    (Instr.beq 0x7F#8).form = some (.beq, .rel) ∧ (∃ t, exec (.beq 0x7F#8) s = .next t) ∧
      Mnemonic.beq ∉ [Mnemonic.jmp, .jsr, .rts, .brk, .rti] ∧ takenBranch (.beq 0x7F#8) s.p = false ∧
      (Instr.sta (.abs 0x0000#16)).form = some (.sta, .abs) ∧ (∃ t, exec (.sta (.abs 0x0000#16)) s = .next t) ∧
      Mnemonic.sta ∉ [Mnemonic.jmp, .jsr, .rts, .brk, .rti] ∧ takenBranch (.sta (.abs 0x0000#16)) s.p = false :=
  ⟨rfl, ⟨_, rfl⟩, by decide, rfl, rfl, ⟨_, rfl⟩, by decide, rfl⟩

/-- A mnemonic outside the list, and an ACC form of one inside it. -/
theorem test_witness_OnlyStoresAndPushesWriteMemory :
    (Instr.pla.form = some (.pla, .imp) ∧ (∃ t, exec .pla State.reset = .next t) ∧
      Mnemonic.pla ∉ [Mnemonic.sta, .stx, .sty, .inc, .dec, .asl, .lsr, .rol, .ror, .pha, .php, .jsr, .brk]) ∧
    ((Instr.rol .acc).form = some (.rol, .acc) ∧ ∃ t, exec (.rol .acc) State.reset = .next t) :=
  ⟨⟨rfl, ⟨_, rfl⟩, by decide⟩, rfl, ⟨_, rfl⟩⟩

/-- The clause on SP, and the clause on memory at the two ends of page one. -/
theorem test_witness_StackWritesStayInPageOne :
    (Instr.txs.form = some (.txs, .imp) ∧ ∃ t, exec .txs State.reset = .next t ∧ t.sp ≠ State.reset.sp) ∧
    (Instr.brk.form = some (.brk, .imp) ∧ (∃ t, exec .brk State.reset = .next t) ∧
      Mnemonic.brk ∈ [Mnemonic.pha, .php, .jsr, .brk] ∧ busIndex 0x00FF#16 < 0x100 ∧ 0x1FF < busIndex 0x0200#16) :=
  ⟨⟨rfl, _, rfl, by decide⟩, rfl, ⟨_, rfl⟩, by decide, by decide, by decide⟩

/-- One instruction that changes each flag. -/
theorem test_witness_FlagsChangeOnlyByTheirWriters :
    (Instr.sec.form = some (.sec, .imp) ∧ ∃ t, exec .sec State.reset = .next t ∧ t.p.c ≠ State.reset.p.c) ∧
    (Instr.inx.form = some (.inx, .imp) ∧
      ∃ t, exec .inx { State.reset with x := 0xFF#8 } = .next t ∧ t.p.z ≠ State.reset.p.z) ∧
    (Instr.dex.form = some (.dex, .imp) ∧ ∃ t, exec .dex State.reset = .next t ∧ t.p.n ≠ State.reset.p.n) ∧
    ((Instr.adc (.imm 0x7F#8)).form = some (.adc, .imm) ∧
      ∃ t, exec (.adc (.imm 0x7F#8)) { State.reset with a := 0x01#8 } = .next t ∧ t.p.v ≠ State.reset.p.v) ∧
    (Instr.cli.form = some (.cli, .imp) ∧ ∃ t, exec .cli State.reset = .next t ∧ t.p.i ≠ State.reset.p.i) ∧
    (Instr.sed.form = some (.sed, .imp) ∧ ∃ t, exec .sed State.reset = .next t ∧ t.p.d ≠ State.reset.p.d) :=
  ⟨⟨rfl, _, rfl, by decide⟩, ⟨rfl, _, rfl, by decide⟩, ⟨rfl, _, rfl, by decide⟩, ⟨rfl, _, rfl, by decide⟩,
    ⟨rfl, _, rfl, by decide⟩, rfl, _, rfl, by decide⟩

theorem test_witness_DecimalAndInterruptFlagsAreNotRead :
    Instr.adc (.imm 0x05#8) ≠ .php ∧ Instr.adc (.imm 0x05#8) ≠ .brk ∧
      ∃ t, exec (.adc (.imm 0x05#8)) { State.reset with a := 0x09#8 } = .next t :=
  ⟨by decide, by decide, _, rfl⟩

theorem test_witness_InstructionsDoNotTouchLatches : ∃ t, exec .brk State.reset = .next t := ⟨_, rfl⟩

/-- A byte that is admitted and one that is not. -/
theorem test_witness_FetchStepLatchesOpcode :
    (placed [0xEA#8]).ready = true ∧
    admitsOpcode Config.admittedSet ((placed [0xEA#8]).read (placed [0xEA#8]).pc) = true ∧
    (placed [0x02#8]).ready = true ∧
    admitsOpcode Config.admittedSet ((placed [0x02#8]).read (placed [0x02#8]).pc) = false := by
  decide

/-- JSR at its first engine cycle, at its last intermediate one, and at its final one. -/
theorem test_witness_StepRunsTheDecodedInstruction :
    ∀ k ∈ [0, 3, 4],
      let s := inside [0x20#8, 0x34#8, 0x12#8] k
      let b := { s with pc := s.pc - 1#16, ready := true, cycle := 0 }
      s.ready = false ∧ admitsOpcode Config.admittedSet s.opcode = true ∧
        decode [s.opcode, s.read s.pc, s.read (s.pc + 1#16)] = .ok (.jsr 0x1234#16, []) ∧
        (k < 4 → s.cycle + 2 < cycles (.jsr 0x1234#16) b) ∧ (k = 4 → s.cycle + 2 = cycles (.jsr 0x1234#16) b) := by
  intro k hk
  simp only [List.mem_cons, List.not_mem_nil, or_false] at hk
  rcases hk with rfl | rfl | rfl <;> exact ⟨rfl, by decide, rfl, by decide, by decide⟩

theorem test_witness_InstructionTakesItsCyclesAndIsExec :
    let s := placed [0xA9#8, 0x00#8, 0xEA#8]
    s.ready = true ∧ admitsOpcode Config.admittedSet (s.read s.pc) = true ∧
      decode [s.read s.pc, s.read (s.pc + 1#16), s.read (s.pc + 2#16)] = .ok (.lda (.imm 0x00#8), [0xEA#8]) :=
  ⟨rfl, by decide, rfl⟩

/-- The longest instruction, at its first cycle and at its last but one. -/
theorem test_witness_NothingChangesBeforeTheFinalCycle :
    let s := placed [0x00#8]
    s.ready = true ∧ admitsOpcode Config.admittedSet (s.read s.pc) = true ∧
      0 + 1 < cycles (fetchedInstr s) s ∧ 5 + 1 < cycles (fetchedInstr s) s := by
  decide

/-- A boundary state, a state at an intermediate cycle and one at the final cycle meet the invariant, and step. -/
theorem test_witness_StepKeepsTheInvariant :
    ((placed [0x06#8, 0x10#8]).Inv ∧ ∃ t, step (placed [0x06#8, 0x10#8]) = .next t) ∧
    ((inside [0x06#8, 0x10#8] 0).Inv ∧ ∃ t, step (inside [0x06#8, 0x10#8] 0) = .next t) ∧
    ((inside [0x06#8, 0x10#8] 3).Inv ∧ ∃ t, step (inside [0x06#8, 0x10#8] 3) = .next t) := by
  refine ⟨⟨by decide, latchFetched (placed [0x06#8, 0x10#8]), rfl⟩, ⟨by decide, _, rfl⟩, by decide, _, rfl⟩

/-- One invariant state that steps and one that is refused. -/
theorem test_witness_OnlyAFetchCanStop : (placed [0x06#8, 0x10#8]).Inv ∧ (placed [0x02#8]).Inv := by decide

theorem test_witness_NoRunFaults : (placed [0x02#8]).Inv ∧ (inside [0x00#8] 5).Inv := by decide

/-- The largest counter and a well-formed instruction of the smallest and of the largest count. -/
theorem test_witness_CycleCounterRange :
    (inside [0x00#8] 5).Inv ∧ (inside [0x00#8] 5).cycle = 5 ∧ Instr.nop.wellFormed = true ∧ Instr.brk.wellFormed = true := by
  decide

theorem test_witness_CycleTableEntries : (Instr.rol .acc).form = some (.rol, .acc) := rfl

/-- The empty image, one that fills the 32 KB, one that is a byte too long, and the untouched addresses on either side of a
one-byte image. -/
theorem test_witness_ConstructionLoadsTheImage :
    0x8000 + ([] : List Byte).length ≤ 0x10000 ∧
    (∃ image : List Byte, 0x8000 + image.length ≤ 0x10000 ∧ image[0x7FFF]? = some 0x5A#8) ∧
    (∃ image : List Byte, 0x10000 < 0x8000 + image.length) ∧
    (0x7FFF#16 : Addr).toNat < 0x8000 ∧ 0x8000 + [0x5A#8].length ≤ (0x8001#16 : Addr).toNat := by
  refine ⟨by decide, ⟨List.replicate 0x8000 0x5A#8, ?_, ?_⟩, ⟨List.replicate 0x8001 0x5A#8, ?_⟩, by decide, by decide⟩
  · rw [List.length_replicate]
  · rw [List.getElem?_replicate]
    exact if_pos (by decide)
  · rw [List.length_replicate]
    decide

theorem test_witness_PlacedWordRunsInOneStep :
    decodeTableWord 24 0x123420 = some (.jsr 0x1234#16) ∧ (Instr.jsr 0x1234#16).documented = true := by
  decide

end Sys2Proof.Tests
end

namespace Sys2Proof.Machine

/-! The stack byte, the status byte and the state after reset (10_state.md R34, R40, R42, R47). -/

/-- R34: OR-ing a byte onto 0x0100 adds it. -/
theorem toNat_stackAddr (sp : Byte) : (stackAddr sp).toNat = 0x100 + sp.toNat := by
  have hle : sp.toNat < 2 ^ 8 := sp.isLt
  have hz : (zext16 sp).toNat = sp.toNat := BitVec.toNat_setWidth_of_le (by decide)
  rw [stackAddr, BitVec.toNat_or, hz]
  exact (Nat.two_pow_add_eq_or_of_lt hle 1).symm

/-- Settles O10: the address by R34, its storage index by `busIndex_stackAddr`. -/
theorem stackPointerDesignatesPageOne : Obligations.StackPointerDesignatesPageOne :=
  fun sp => ⟨toNat_stackAddr sp, busIndex_stackAddr sp⟩

/-- A bit appended below a word doubles the word and adds the bit. -/
theorem toNat_append_ofBool {w : Nat} (x : BitVec w) (b : Bool) :
    (x ++ BitVec.ofBool b).toNat = 2 * x.toNat + b.toNat := by
  rw [BitVec.toNat_append, ← Nat.shiftLeft_add_eq_or_of_lt (BitVec.isLt _), Nat.shiftLeft_eq, BitVec.toNat_ofBool]
  omega

/-- R40, R42: the weights of the bits of a status image. -/
theorem Status.toNat_image (p : Status) (b : Bool) :
    (p.image b).toNat = 128 * p.n.toNat + 64 * p.v.toNat + 32 + 16 * b.toNat + 8 * p.d.toNat + 4 * p.i.toNat +
      2 * p.z.toNat + p.c.toNat := by
  have hbit5 : (1#1 : BitVec 1) = BitVec.ofBool true := rfl
  simp only [Status.image, hbit5, toNat_append_ofBool, BitVec.toNat_ofBool, Bool.toNat_true]
  omega

/-- R42: the image PHP and BRK push is P read as a byte with bits 5 and 4 set. -/
theorem Status.image_true (p : Status) : p.image true = p.byte ||| 0x30#8 := by
  rcases p with ⟨n, v, d, i, z, c⟩
  cases n <;> cases v <;> cases d <;> cases i <;> cases z <;> cases c <;> rfl

/-- Settles O27, clause by clause. -/
theorem statusByteLayout : Obligations.StatusByteLayout :=
  fun p b => ⟨p.toNat_image b, rfl, p.image_true, p.ofByte_image b⟩

/-- R69: after reset every byte is its draw. -/
theorem State.read_reset (a : Addr) : State.reset.read a = Config.initMem (busIndex a) :=
  Memory.get_nil (busIndex a)

/-- Settles O57: the registers and latches are the literals of R47, memory is `State.read_reset`. -/
theorem resetState : Obligations.ResetState :=
  ⟨⟨rfl, rfl, rfl, rfl, rfl, rfl, rfl, rfl, rfl, rfl⟩, State.read_reset⟩

/-! Pushes and pulls (10_state.md R35 to R37). -/

/-- R34: a storage index outside page one is the stack byte of no stack pointer. -/
theorem State.read_push_of_outside (s : State) (v : Byte) {a : Addr}
    (ha : busIndex a < 0x100 ∨ 0x1FF < busIndex a) : (s.push v).read a = s.read a := by
  have hne : busIndex a ≠ 0x100 + s.sp.toNat := by have := s.sp.isLt; omega
  rw [State.read_push, if_neg hne]

theorem State.read_push16_of_outside (s : State) (w : Addr) {a : Addr}
    (ha : busIndex a < 0x100 ∨ 0x1FF < busIndex a) : (s.push16 w).read a = s.read a :=
  (State.read_push_of_outside _ _ ha).trans (State.read_push_of_outside _ _ ha)

/-- R35: a push leaves the stack bytes of the other stack pointers as they were. -/
theorem State.read_push_stackAddr_of_ne (s : State) (v : Byte) {q : Byte} (hq : q ≠ s.sp) :
    (s.push v).read (stackAddr q) = s.read (stackAddr q) := by
  have hne : busIndex (stackAddr q) ≠ 0x100 + s.sp.toNat := fun h =>
    hq (busIndex_stackAddr_inj (h.trans (busIndex_stackAddr s.sp).symm))
  rw [State.read_push, if_neg hne]

/-- R36, R37: below the byte pushed last, a 16-bit pull gives what it gave before the push. -/
theorem State.pulled16_afterPull_push (s : State) (v : Byte) : (s.push v).afterPull.pulled16 = s.pulled16 := by
  have hsp : (s.push v).sp + 1#8 = s.sp := BitVec.sub_add_cancel s.sp 1#8
  have h1 : s.sp + 1#8 ≠ s.sp := by bv_omega
  have h2 : s.sp + 1#8 + 1#8 ≠ s.sp := by bv_omega
  simp only [State.pulled16, State.pulled, State.read_afterPull, State.afterPull_sp, hsp,
    State.read_push_stackAddr_of_ne s v h1, State.read_push_stackAddr_of_ne s v h2]

/-- R37: a 16-bit pull gives back the value pushed last. -/
theorem State.pulled16_push16 (s : State) (w : Addr) : (s.push16 w).pulled16 = w := by
  have hlo : (s.push16 w).pulled = loByte w := State.pulled_push _ _
  have hhi : (s.push16 w).afterPull.pulled = hiByte w := by
    have hsp : (s.push16 w).sp + 1#8 = (s.push (hiByte w)).sp := BitVec.sub_add_cancel _ 1#8
    have hne : (s.push (hiByte w)).sp + 1#8 ≠ (s.push (hiByte w)).sp := by bv_omega
    calc (s.push16 w).afterPull.pulled
      _ = (s.push (hiByte w)).pulled := by
          rw [State.pulled, State.read_afterPull, State.afterPull_sp, hsp, State.push16,
            State.read_push_stackAddr_of_ne _ _ hne, State.pulled]
      _ = hiByte w := State.pulled_push _ _
  rw [State.pulled16, hlo, hhi, le16_lo_hi]

theorem pulled_takeBreak (s : State) : s.takeBreak.pulled = s.p.image true :=
  State.pulled_push (s.push16 (s.pc + 2#16)) (s.p.image true)

theorem pulled16_afterPull_takeBreak (s : State) : s.takeBreak.afterPull.pulled16 = s.pc + 2#16 :=
  (State.pulled16_afterPull_push (s.push16 (s.pc + 2#16)) (s.p.image true)).trans (s.pulled16_push16 _)

/-- R253, R306: RTI writes P, PC and SP. -/
theorem State.returnFromBreak_eq (t : State) :
    t.returnFromBreak = { t with
      sp := t.sp + 1#8 + 1#8 + 1#8, p := Status.ofByte t.pulled, pc := t.afterPull.pulled16 } := rfl

/-- R306: the return from the trap gives back every register and flag; the address is the one pushed. -/
theorem State.returnFromBreak_takeBreak (s : State) :
    s.takeBreak.returnFromBreak = { s with mem := s.takeBreak.mem, pc := s.pc + 2#16 } := by
  have hsp : s.takeBreak.sp + 1#8 + 1#8 + 1#8 = s.sp := by
    have h : s.takeBreak.sp = s.sp - 1#8 - 1#8 - 1#8 := rfl
    simp only [h, BitVec.sub_add_cancel]
  rw [State.returnFromBreak_eq, hsp, pulled_takeBreak, Status.ofByte_image, pulled16_afterPull_takeBreak]
  rfl

/-- R250, R251: RTS right after JSR goes past the three bytes of the JSR. -/
theorem exec_rts_after_jsr (s : State) (w : Addr) :
    exec .rts { s.push16 (s.pc + 2#16) with pc := w } =
      .next { s with mem := (s.push16 (s.pc + 2#16)).mem, pc := s.pc + 3#16 } := by
  have hsp : s.sp - 1#8 - 1#8 + 1#8 + 1#8 = s.sp := by simp only [BitVec.sub_add_cancel]
  have hpc : (s.push16 (s.pc + 2#16)).pulled16 + 1#16 = s.pc + 3#16 := by
    rw [State.pulled16_push16, BitVec.add_assoc]; rfl
  calc exec .rts { s.push16 (s.pc + 2#16) with pc := w }
    _ = .next { s with
          mem := (s.push16 (s.pc + 2#16)).mem
          sp := s.sp - 1#8 - 1#8 + 1#8 + 1#8
          pc := (s.push16 (s.pc + 2#16)).pulled16 + 1#16 } := rfl
    _ = _ := by rw [hsp, hpc]

/-- Settles O34: the pulls of RTS and RTI meet the pushes of JSR and BRK in reverse order. -/
theorem returnsUndoCallsAndTraps : Obligations.ReturnsUndoCallsAndTraps := by
  intro s t w
  refine ⟨fun h => ?_, fun h => ?_⟩
  · cases h
    exact ⟨_, exec_rts_after_jsr s w, rfl⟩
  · cases h
    exact ⟨_, rfl, s.returnFromBreak_takeBreak⟩

/-- Settles O35: the pull's byte is the pushed one, from every stack pointer (`State.pulled_push`). -/
theorem pullsUndoPushes : Obligations.PullsUndoPushes := by
  intro s t
  have hsp : s.sp - 1#8 + 1#8 = s.sp := BitVec.sub_add_cancel s.sp 1#8
  refine ⟨fun h => ?_, fun h => ?_⟩
  · cases h
    exact ⟨_, rfl, s.pulled_push s.a, hsp, rfl⟩
  · cases h
    have hp : Status.ofByte (s.push (s.p.image true)).pulled = s.p := by
      rw [State.pulled_push, Status.ofByte_image]
    exact ⟨_, rfl, hp, hsp, rfl⟩

/-! The break trap (60_exceptions.md R305). -/

theorem hiByte_eq_ofNat (w : Addr) : hiByte w = BitVec.ofNat 8 (w.toNat / 256) :=
  BitVec.eq_of_toNat_eq (by rw [toNat_hiByte, BitVec.toNat_ofNat]; have := w.isLt; omega)

theorem loByte_eq_ofNat (w : Addr) : loByte w = BitVec.ofNat 8 (w.toNat % 256) :=
  BitVec.eq_of_toNat_eq (by rw [toNat_loByte, BitVec.toNat_ofNat]; omega)

/-- R305: the pushes of the trap stay in page one. -/
theorem State.read_takeBreak_of_outside (s : State) {a : Addr}
    (ha : busIndex a < 0x100 ∨ 0x1FF < busIndex a) : s.takeBreak.read a = s.read a :=
  (State.read_push_of_outside _ _ ha).trans (s.read_push16_of_outside _ ha)

/-- R305: the three bytes the trap pushes, the top of the stack last. -/
theorem State.read_takeBreak (s : State) (a : Addr) :
    s.takeBreak.read a =
      if busIndex a = busIndex (stackAddr s.sp) then hiByte (s.pc + 2#16)
      else if busIndex a = busIndex (stackAddr (s.sp - 1#8)) then loByte (s.pc + 2#16)
      else if busIndex a = busIndex (stackAddr (s.sp - 2#8)) then s.p.image true
      else s.read a := by
  have htop : s.sp - 1#8 - 1#8 = s.sp - 2#8 := by bv_omega
  have h1 : s.sp.toNat ≠ (s.sp - 1#8).toNat := by bv_omega
  have h2 : s.sp.toNat ≠ (s.sp - 2#8).toNat := by bv_omega
  have h3 : (s.sp - 1#8).toNat ≠ (s.sp - 2#8).toNat := by bv_omega
  have hread : s.takeBreak.read a = ((s.push16 (s.pc + 2#16)).push (s.p.image true)).read a := rfl
  rw [hread, State.read_push, State.read_push16, State.push16_sp, htop]
  simp only [busIndex_stackAddr]
  by_cases hhigh : busIndex a = 0x100 + s.sp.toNat
  · simp only [hhigh, Nat.add_right_inj, h1, h2, ↓reduceIte]
  · by_cases hlow : busIndex a = 0x100 + (s.sp - 1#8).toNat
    · simp only [hlow, Nat.add_right_inj, h1.symm, h3, ↓reduceIte]
    · simp only [hhigh, hlow, ↓reduceIte]

/-- R252, R305: the trap goes to the vector, which its pushes do not reach. -/
theorem State.toNat_pc_takeBreak (s : State) :
    s.takeBreak.pc.toNat = (s.read 0xFFFE#16).toNat + 256 * (s.read 0xFFFF#16).toNat := by
  have hlo : s.takeBreak.read 0xFFFE#16 = s.read 0xFFFE#16 := s.read_takeBreak_of_outside (by decide)
  have hhi : s.takeBreak.read 0xFFFF#16 = s.read 0xFFFF#16 := s.read_takeBreak_of_outside (by decide)
  have hpc : s.takeBreak.pc = le16 (s.takeBreak.read 0xFFFE#16) (s.takeBreak.read 0xFFFF#16) := rfl
  rw [hpc, toNat_le16, hlo, hhi]

/-- R96: BRK is opcode 0x00 and no other. -/
theorem hasForms_brk : HasForms .brk [(0x00#8, .imp)] := by unfold HasForms; decide +kernel

/-- Settles O32: the whole state, then the vector and the three pushed bytes. -/
theorem brkSavesStateAndTakesVector : Obligations.BrkSavesStateAndTakesVector := by
  refine ⟨hasForms_brk, fun s => ⟨rfl, s.takeBreak, rfl, ?_, s.toNat_pc_takeBreak, fun a => ?_⟩⟩
  · have hsp : s.sp - 3#8 = s.sp - 1#8 - 1#8 - 1#8 := by bv_omega
    rw [hsp]
    rfl
  · have hret : (s.pc + 2#16).toNat = (s.pc.toNat + 2) % 65536 := BitVec.toNat_add s.pc 2#16
    rw [State.read_takeBreak, hiByte_eq_ofNat, loByte_eq_ofNat, hret, Status.image_true]

end Sys2Proof.Machine
namespace Sys2Proof.Machine

/-! Frames over all instructions: the stack pointer, page one, the flags (10_state.md R34, R35, R41). -/

@[simp] theorem State.modify_sp (s : State) (m : RmwOperand) (f : Byte → Status → Byte × Status) :
    (s.modify m f).sp = s.sp := by
  cases m <;> rfl

/-- R134: the new P of a read-modify-write instruction is its handler's, from the old P. -/
theorem State.modify_p (s : State) (m : RmwOperand) (f : Byte → Status → Byte × Status) :
    ∃ v, (s.modify m f).p = (f v s.p).2 := by
  cases m with
  | acc => exact ⟨s.a, rfl⟩
  | mem mm => exact ⟨s.read (effAddr mm s), rfl⟩

/-- A flag that the handler keeps is kept by the read-modify-write instruction. -/
theorem State.modify_keeps {α : Type} (flag : Status → α) (s : State) (m : RmwOperand)
    {f : Byte → Status → Byte × Status} (hf : ∀ v p, flag (f v p).2 = flag p) :
    flag (s.modify m f).p = flag s.p := by
  obtain ⟨v, hv⟩ := s.modify_p m f
  rw [hv, hf]

section
variable {i : Instr} {mn : Mnemonic} {mode : Mode} {s t : State}

/-- R34 to R37: an instruction that neither pushes, pulls nor is TXS keeps SP. -/
theorem exec_keeps_sp (hf : i.form = some (mn, mode)) (h : exec i s = .next t)
    (hmn : mn ∉ [.pha, .php, .pla, .plp, .jsr, .rts, .brk, .rti, .txs]) : t.sp = s.sp := by
  cases i with
  | pha | php | pla | plp | jsr | rts | brk | rti | txs => cases hf; exact absurd (by decide) hmn
  | undocumented => cases hf
  | asl m | lsr m | rol m | ror m => cases h; exact s.modify_sp m _
  | _ => cases h; rfl

/-- R34, R35: what the pushing instructions write lies in page one of storage. -/
theorem exec_push_keeps_outside (hf : i.form = some (mn, mode)) (h : exec i s = .next t)
    (hmn : mn ∈ [.pha, .php, .jsr, .brk]) {a : Addr} (ha : busIndex a < 0x100 ∨ 0x1FF < busIndex a) :
    t.read a = s.read a := by
  cases i with
  | pha => cases h; exact s.read_push_of_outside _ ha
  | php => cases h; exact s.read_push_of_outside _ ha
  | jsr => cases h; exact s.read_push16_of_outside _ ha
  | brk => cases h; exact s.read_takeBreak_of_outside ha
  | undocumented => cases hf
  | _ => cases hf; exact absurd hmn (by decide)

theorem exec_keeps_c (hf : i.form = some (mn, mode)) (h : exec i s = .next t)
    (hmn : mn ∉ [.adc, .sbc, .cmp, .cpx, .cpy, .asl, .lsr, .rol, .ror, .clc, .sec, .plp, .rti]) : t.p.c = s.p.c := by
  cases i with
  | adc | sbc | cmp | cpx | cpy | asl | lsr | rol | ror | clc | sec | plp | rti =>
    cases hf; exact absurd (by decide) hmn
  | undocumented => cases hf
  | _ => cases h; rfl

theorem exec_keeps_n_z (hf : i.form = some (mn, mode)) (h : exec i s = .next t)
    (hmn : mn ∉ [.adc, .sbc, .cmp, .cpx, .cpy, .inc, .dec, .inx, .iny, .dex, .dey, .and, .ora, .eor, .bit,
      .asl, .lsr, .rol, .ror, .lda, .ldx, .ldy, .tax, .tay, .txa, .tya, .tsx, .pla, .plp, .rti]) :
    t.p.n = s.p.n ∧ t.p.z = s.p.z := by
  cases i with
  | adc | sbc | cmp | cpx | cpy | inc | dec | inx | iny | dex | dey | and | ora | eor | bit | asl | lsr | rol | ror
  | lda | ldx | ldy | tax | tay | txa | tya | tsx | pla | plp | rti => cases hf; exact absurd (by decide) hmn
  | undocumented => cases hf
  | _ => cases h; exact ⟨rfl, rfl⟩

theorem exec_keeps_v (hf : i.form = some (mn, mode)) (h : exec i s = .next t)
    (hmn : mn ∉ [.adc, .sbc, .bit, .clv, .plp, .rti]) : t.p.v = s.p.v := by
  cases i with
  | adc | sbc | bit | clv | plp | rti => cases hf; exact absurd (by decide) hmn
  | undocumented => cases hf
  | asl m | lsr m | rol m | ror m => cases h; exact s.modify_keeps Status.v m fun _ _ => rfl
  | _ => cases h; rfl

theorem exec_keeps_i (hf : i.form = some (mn, mode)) (h : exec i s = .next t)
    (hmn : mn ∉ [.cli, .sei, .brk, .plp, .rti]) : t.p.i = s.p.i := by
  cases i with
  | cli | sei | brk | plp | rti => cases hf; exact absurd (by decide) hmn
  | undocumented => cases hf
  | asl m | lsr m | rol m | ror m => cases h; exact s.modify_keeps Status.i m fun _ _ => rfl
  | _ => cases h; rfl

theorem exec_keeps_d (hf : i.form = some (mn, mode)) (h : exec i s = .next t)
    (hmn : mn ∉ [.cld, .sed, .plp, .rti]) : t.p.d = s.p.d := by
  cases i with
  | cld | sed | plp | rti => cases hf; exact absurd (by decide) hmn
  | undocumented => cases hf
  | asl m | lsr m | rol m | ror m => cases h; exact s.modify_keeps Status.d m fun _ _ => rfl
  | _ => cases h; rfl

end

/-- Settles O41: `exec_keeps_sp` contraposed, and `exec_push_keeps_outside`. -/
theorem stackWritesStayInPageOne : Obligations.StackWritesStayInPageOne := by
  intro i mn mode s t hf h
  exact ⟨fun hsp => by_contra fun hmn => hsp (exec_keeps_sp hf h hmn),
    fun hmn a ha => exec_push_keeps_outside hf h hmn ha⟩

/-- Settles O42: contraposition of the frame lemma of each flag. -/
theorem flagsChangeOnlyByTheirWriters : Obligations.FlagsChangeOnlyByTheirWriters := by
  intro i mn mode s t hf h
  refine ⟨fun hc => ?_, fun hnz => ?_, fun hv => ?_, fun hi => ?_, fun hd => ?_⟩
  · exact by_contra fun hmn => hc (exec_keeps_c hf h hmn)
  · by_contra hmn
    obtain ⟨hn, hz⟩ := exec_keeps_n_z hf h hmn
    exact hnz.elim (· hz) (· hn)
  · exact by_contra fun hmn => hv (exec_keeps_v hf h hmn)
  · exact by_contra fun hmn => hi (exec_keeps_i hf h hmn)
  · exact by_contra fun hmn => hd (exec_keeps_d hf h hmn)

/-! D and I are not read (10_state.md R41, R167, R303). -/

/-- The state with D and I set. -/
def State.withDI (s : State) (d i : Bool) : State := { s with p := { s.p with d := d, i := i } }

/-- A branch is decided by N, V, Z and C. -/
theorem takenBranch_withDI (i : Instr) (d k : Bool) (s : State) :
    takenBranch i (s.withDI d k).p = takenBranch i s.p := by
  cases i <;> rfl

theorem cycles_withDI (i : Instr) (d k : Bool) (s : State) : cycles i (s.withDI d k) = cycles i s := by
  unfold cycles cyclesWith
  rw [takenBranch_withDI]
  rfl

/-- Whatever D and I were, an instruction other than PHP and BRK ends in the same state but for D and I. -/
theorem exec_withDI {i : Instr} {s t : State} (d k : Bool) (hphp : i ≠ .php) (hbrk : i ≠ .brk)
    (h : exec i s = .next t) :
    ∃ u, exec i (s.withDI d k) = .next u ∧ u = t.withDI u.p.d u.p.i := by
  cases i with
  | php => exact absurd rfl hphp
  | brk => exact absurd rfl hbrk
  | undocumented => cases h
  | asl m | lsr m | rol m | ror m => cases h; cases m <;> exact ⟨_, rfl, rfl⟩
  | _ => cases h; exact ⟨_, rfl, rfl⟩

/-- Settles O43: `cycles_withDI` and `exec_withDI`. -/
theorem decimalAndInterruptFlagsAreNotRead : Obligations.DecimalAndInterruptFlagsAreNotRead :=
  fun i d k s _ hphp hbrk h => ⟨cycles_withDI i d k s, exec_withDI d k hphp hbrk h⟩

/-! Cycle counts and the cycle counter (10_state.md R45, 70_reset_and_hazards.md R332, R337). -/

/-- R337: the least and the greatest entry of the cycle table. -/
theorem baseCycles_range (mn : Mnemonic) (mode : Mode) : 2 ≤ baseCycles mn mode ∧ baseCycles mn mode ≤ 7 := by
  cases mode <;> cases mn <;> decide

/-- R337: the entries that a taken branch adds to are 2. -/
theorem baseCycles_of_takenBranch {i : Instr} {mn : Mnemonic} {mode : Mode} {p : Status}
    (hf : i.form = some (mn, mode)) (ht : takenBranch i p = true) :
    baseCycles mn mode = 2 ∧ penaltyOperand i = none := by
  cases i with
  | bpl | bmi | bvc | bvs | bcc | bcs | bne | beq => cases hf; exact ⟨rfl, rfl⟩
  | _ => cases ht

/-- R337: only the RMW mnemonics (in ABSX) and BRK have an entry of 7. -/
theorem mem_of_baseCycles_eq_seven (mn : Mnemonic) (mode : Mode) :
    baseCycles mn mode = 7 → mn ∈ [.inc, .dec, .asl, .lsr, .rol, .ror, .brk] := by
  cases mode <;> cases mn <;> decide

/-- R337: the entries that carry +p, those of the read class, are at most 6. -/
theorem baseCycles_of_penaltyOperand {i : Instr} {mn : Mnemonic} {mode : Mode} {m : MemMode}
    (hf : i.form = some (mn, mode)) (hp : penaltyOperand i = some m) : baseCycles mn mode ≤ 6 := by
  have hread : mn ∉ [.inc, .dec, .asl, .lsr, .rol, .ror, .brk] := by
    cases i with
    | adc | sbc | cmp | cpx | cpy | and | ora | eor | lda | ldx | ldy | bit => cases hf; decide
    | _ => cases hp
  have hne : baseCycles mn mode ≠ 7 := fun h => hread (mem_of_baseCycles_eq_seven mn mode h)
  have hle := (baseCycles_range mn mode).2
  omega

/-- R332, R337: every count is 2 to 7, whether or not a page crossing costs a cycle. -/
theorem cyclesWith_range (penalty : Bool) (i : Instr) (s : State) :
    2 ≤ cyclesWith penalty i s ∧ cyclesWith penalty i s ≤ 7 := by
  unfold cyclesWith
  cases hf : i.form with
  | none => exact (by decide : 2 ≤ 2 ∧ 2 ≤ 7)
  | some form =>
    obtain ⟨mn, mode⟩ := form
    obtain ⟨hlo, hhi⟩ := baseCycles_range mn mode
    cases ht : takenBranch i s.p with
    | true =>
      obtain ⟨hbase, hnone⟩ := baseCycles_of_takenBranch hf ht
      simp [hbase, hnone]
    | false =>
      cases hp : penaltyOperand i with
      | none => simp [hlo, hhi]
      | some m =>
        have hbase := baseCycles_of_penaltyOperand hf hp
        have hone := Bool.toNat_le (penalty && pageCrossed m s)
        simp only [Bool.toNat_false]
        omega

/-- R45, R332: between boundaries the counter is at least two short of a cycle count; at a boundary it is 0. -/
theorem cycle_le_of_inv (s : State) (hs : s.Inv) : s.cycle ≤ 5 := by
  obtain ⟨-, hboundary, hbetween⟩ := hs
  cases hr : s.ready with
  | true => rw [hboundary hr]; exact Nat.zero_le 5
  | false =>
    obtain ⟨-, -, hcycle⟩ := hbetween hr
    have hle : cycles (latchedInstr s) (startOf s) ≤ 7 := (cyclesWith_range _ _ _).2
    omega

/-- Settles O53: the range of the counts holds of ill-formed instructions as well. -/
theorem cycleCounterRange : Obligations.CycleCounterRange :=
  ⟨cycle_le_of_inv, fun penalty i s _ => cyclesWith_range penalty i s⟩

end Sys2Proof.Machine

namespace Sys2Proof.Machine

/-! Every step keeps the invariant (70_reset_and_hazards.md R330 to R333). -/

/-- R330: the latched byte is the one at PC0, and no count is below the first engine step's. -/
theorem inv_latchFetched {s : State} (hwf : s.mem.wf = true)
    (ha : admitsOpcode Config.admittedSet (s.read s.pc) = true) : (latchFetched s).Inv := by
  have hpc : (latchFetched s).pc - 1#16 = s.pc := BitVec.add_sub_cancel s.pc 1#16
  exact ⟨hwf, fun _ => rfl, fun _ => ⟨by rw [hpc]; rfl, ha, two_le_cycles _ _⟩⟩

/-- R332: an intermediate cycle leaves the instruction in progress and its count as they were. -/
theorem cycles_intermediateStep (s : State) :
    cycles (latchedInstr (intermediateStep s)) (startOf (intermediateStep s)) =
      cycles (latchedInstr s) (startOf s) :=
  cycles_setLatches (latchedInstr s) true s.opcode 0 (Config.scratchDraw s.draws) (s.draws + 1) (startOf s)

theorem inv_intermediateStep {s : State} (hs : s.Inv) (hr : s.ready = false)
    (hk : s.cycle + 2 < cycles (latchedInstr s) (startOf s)) : (intermediateStep s).Inv := by
  obtain ⟨hwf, -, hbetween⟩ := hs
  obtain ⟨hop, ha, -⟩ := hbetween hr
  refine ⟨hwf, fun h => absurd (hr.symm.trans h) Bool.false_ne_true, fun _ => ⟨hop, ha, ?_⟩⟩
  rw [cycles_intermediateStep, intermediateStep_cycle]
  omega

/-- R331: at a boundary the invariant asks for canonical storage and the counter at 0. -/
theorem inv_of_boundary {s : State} (hwf : s.mem.wf = true) (hr : s.ready = true) (hc : s.cycle = 0) : s.Inv :=
  ⟨hwf, fun _ => hc, fun h => absurd (h.symm.trans hr) Bool.false_ne_true⟩

/-- Settles O49: one lemma for each thing a step can have done (`step_cases`). -/
theorem stepKeepsTheInvariant : Obligations.StepKeepsTheInvariant := by
  intro s t hs h
  have hwf : s.mem.wf = true := hs.1
  obtain ⟨-, ha, rfl⟩ | ⟨hr, -, hk, rfl⟩ | ⟨-, -, -, u, hu, rfl⟩ := step_cases s t h
  · exact inv_latchFetched hwf ha
  · exact inv_intermediateStep hs hr hk
  · have hu_wf : u.mem.wf = true := exec_wf _ _ _ hu hwf
    exact inv_of_boundary hu_wf rfl rfl

/-! The address decode in numbers (20_memory.md R62, R64, R65). -/

theorem storageIndex_of_ram (mask : Addr) {a : Addr} (h : a.toNat ≤ 0x1FFF) :
    storageIndex mask a = (a &&& mask).toNat :=
  if_pos (BitVec.le_def.2 h)

/-- R62: RAM_MASK plays no part above RAM. -/
theorem storageIndex_of_not_ram (mask : Addr) {a : Addr} (h : 0x2000 ≤ a.toNat) : storageIndex mask a = busIndex a := by
  have hram : ¬ a ≤ 0x1FFF#16 := fun hle => absurd (BitVec.le_def.1 hle) (Nat.not_le.2 h)
  simp only [busIndex, storageIndex, hram, ↓reduceIte]

/-- R62: the default RAM_MASK is the modulus of the table. -/
theorem busIndex_of_ram {a : Addr} (h : a.toNat ≤ 0x1FFF) : busIndex a = a.toNat % 0x800 := by
  rw [busIndex_ram a (BitVec.le_def.2 h), BitVec.toNat_and]
  exact Nat.and_two_pow_sub_one_eq_mod a.toNat 11

theorem busIndex_of_ppu {a : Addr} (hlo : 0x2000 ≤ a.toNat) (hhi : a.toNat ≤ 0x3FFF) :
    busIndex a = 0x2000 + a.toNat % 8 := by
  have hlt : a.toNat % 8 < 2 ^ 13 := by omega
  have hmod : a.toNat &&& 7 = a.toNat % 8 := Nat.and_two_pow_sub_one_eq_mod a.toNat 3
  rw [busIndex_ppu a (BitVec.le_def.2 hlo) (BitVec.le_def.2 hhi), BitVec.toNat_or, BitVec.toNat_and]
  exact (congrArg (0x2000 ||| ·) hmod).trans (Nat.two_pow_add_eq_or_of_lt hlt 1).symm

theorem busIndex_of_direct {a : Addr} (h : 0x4000 ≤ a.toNat) : busIndex a = a.toNat :=
  busIndex_direct a (BitVec.le_def.2 h)

theorem busIndex_ofNat {n : Nat} (hlo : 0x4000 ≤ n) (hhi : n < 0x10000) : busIndex (BitVec.ofNat 16 n) = n := by
  have hn : (BitVec.ofNat 16 n).toNat = n := (BitVec.toNat_ofNat n 16).trans (Nat.mod_eq_of_lt hhi)
  rw [busIndex_of_direct (hlo.trans_eq hn.symm), hn]

theorem State.read_write_self (s : State) (a : Addr) (v : Byte) : (s.write a v).read a = v := by
  rw [State.read_write, if_pos rfl]

/-- Settles O6, region by region. -/
theorem addressDecodeMirrorsRamAndPpu : Obligations.AddressDecodeMirrorsRamAndPpu :=
  ⟨fun mask _ => storageIndex_of_ram mask, fun mask _ => storageIndex_of_not_ram mask, fun _ => busIndex_of_ram,
    fun _ => busIndex_of_ppu, fun _ => busIndex_of_direct, fun s a v => ⟨rfl, fun b => s.read_write a b v⟩⟩

/-- Settles O7: the index of a PPU address is 0x2000 plus the address mod 8. -/
theorem ppuRegistersAliasEveryEighthAddress : Obligations.PpuRegistersAliasEveryEighthAddress := by
  intro a b ha ha' hb hb'
  have hiff : busIndex a = busIndex b ↔ a.toNat % 8 = b.toNat % 8 := by
    rw [busIndex_of_ppu ha ha', busIndex_of_ppu hb hb', Nat.add_left_cancel_iff]
  refine ⟨hiff, fun s v hmod => ?_⟩
  have hidx : busIndex a = busIndex b := hiff.2 hmod
  exact ⟨by rw [State.read_write, if_pos hidx.symm], by rw [State.read, State.read, hidx]⟩

/-- R64: 0x08FF keeps bit 11 and the low byte. -/
theorem and_0x08FF (n : Nat) : n &&& 0x08FF = 2 ^ 11 * (n.testBit 11).toNat + n % 2 ^ 8 := by
  have hor : (0x08FF : Nat) = 2 ^ 11 ||| (2 ^ 8 - 1) := rfl
  have hlt : n % 2 ^ 8 < 2 ^ 11 := by omega
  rw [hor, Nat.and_or_distrib_left, Nat.and_two_pow, Nat.and_two_pow_sub_one_eq_mod, Nat.mul_comm,
    Nat.two_pow_add_eq_or_of_lt hlt]

theorem storageIndex_0x08FF_range {a : Addr} (h : a.toNat ≤ 0x1FFF) :
    storageIndex 0x08FF#16 a ≤ 0xFF ∨ (0x800 ≤ storageIndex 0x08FF#16 a ∧ storageIndex 0x08FF#16 a ≤ 0x8FF) := by
  have hidx : storageIndex 0x08FF#16 a = 2 ^ 11 * (a.toNat.testBit 11).toNat + a.toNat % 2 ^ 8 := by
    rw [storageIndex_of_ram _ h, BitVec.toNat_and]; exact and_0x08FF _
  cases hb : a.toNat.testBit 11 with
  | false => rw [hb, Bool.toNat_false] at hidx; omega
  | true => rw [hb, Bool.toNat_true] at hidx; omega

theorem toNat_zext16 (b : Byte) : (zext16 b).toNat = b.toNat := BitVec.toNat_setWidth_of_le (by decide)

/-- R64: 0x08FF drops the bit in which the stack page differs from page zero. -/
theorem storageIndex_0x08FF_stackAddr (b : Byte) :
    storageIndex 0x08FF#16 (stackAddr b) = storageIndex 0x08FF#16 (zext16 b) := by
  have hb : b.toNat < 256 := b.isLt
  have hstack : (stackAddr b).toNat ≤ 0x1FFF := by rw [toNat_stackAddr]; omega
  have hzero : (zext16 b).toNat ≤ 0x1FFF := by rw [toNat_zext16]; omega
  have hdrop : (0x0100#16 : Addr) &&& 0x08FF#16 = 0#16 := rfl
  have hand : stackAddr b &&& 0x08FF#16 = zext16 b &&& 0x08FF#16 := by
    rw [stackAddr, BitVec.and_or_distrib_right, hdrop, BitVec.zero_or]
  rw [storageIndex_of_ram _ hstack, storageIndex_of_ram _ hzero, hand]

/-- Settles O8: at the default mask by `busIndex_of_ram`, at 0x08FF by the two lemmas about it. -/
theorem ramMirrorsUnderEitherMask : Obligations.RamMirrorsUnderEitherMask :=
  ⟨fun a b ha hb => by rw [busIndex_of_ram ha, busIndex_of_ram hb],
    fun _ => storageIndex_0x08FF_range, storageIndex_0x08FF_stackAddr⟩

/-- Settles O9: the fetch latches the byte it reads, which is the one written. -/
theorem romRegionIsWritableAndFetched : Obligations.RomRegionIsWritableAndFetched := by
  intro s a v _
  have hread : (s.write a v).read a = v := s.read_write_self a v
  refine ⟨hread, fun hr ha => ⟨_, step_fetch { s.write a v with pc := a } hr ?_, hread⟩⟩
  exact (congrArg (admitsOpcode Config.admittedSet) hread).trans ha

/-! Which instructions write memory (20_memory.md R72, 40_addressing_modes.md R135). -/

theorem exec_keeps_mem_of_not_writer {i : Instr} {mn : Mnemonic} {mode : Mode} {s t : State}
    (hf : i.form = some (mn, mode)) (h : exec i s = .next t)
    (hmn : mn ∉ [.sta, .stx, .sty, .inc, .dec, .asl, .lsr, .rol, .ror, .pha, .php, .jsr, .brk]) : t.mem = s.mem := by
  cases i with
  | sta | stx | sty | inc | dec | asl | lsr | rol | ror | pha | php | jsr | brk => cases hf; exact absurd (by decide) hmn
  | undocumented => cases hf
  | _ => cases h; rfl

/-- R120: the mode of a memory operand is not ACC. -/
theorem memMode_ne_acc (m : MemMode) : m.mode ≠ .acc := by
  cases m <;> exact Mode.noConfusion

/-- R122: a shift whose mode is ACC has no memory operand. -/
theorem State.mem_modify_of_acc (s : State) {m : RmwOperand} (f : Byte → Status → Byte × Status)
    (hm : m.mode = .acc) : (s.modify m f).mem = s.mem := by
  cases m with
  | acc => rfl
  | mem mm => exact absurd hm (memMode_ne_acc mm)

theorem exec_keeps_mem_of_acc {i : Instr} {mn : Mnemonic} {s t : State}
    (hf : i.form = some (mn, .acc)) (h : exec i s = .next t) : t.mem = s.mem := by
  cases i with
  | pha | php | jsr | brk | undocumented => cases hf
  | inc m | dec m | sta m | stx m | sty m =>
    exact absurd (congrArg Prod.snd (Option.some.inj hf)) (memMode_ne_acc m)
  | asl m | lsr m | rol m | ror m =>
    cases h; exact s.mem_modify_of_acc _ (congrArg Prod.snd (Option.some.inj hf))
  | _ => cases h; rfl

/-- Settles O40: the mnemonics that never write, and the ACC forms. -/
theorem onlyStoresAndPushesWriteMemory : Obligations.OnlyStoresAndPushesWriteMemory := by
  rintro i mn mode s t hf h (hmn | rfl)
  · exact exec_keeps_mem_of_not_writer hf h hmn
  · exact exec_keeps_mem_of_acc hf h

/-! Byte order (20_memory.md R70, 30_encoding.md R92). -/

/-- R96, R97: the table gives a mnemonic only modes it has. -/
theorem mode_mem_of_decode8 {op : Byte} {mn : Mnemonic} {mode : Mode} (h : decode8 op = some (mn, mode)) :
    mode ∈ mn.modes := by
  have table : ∀ op : Byte, ∀ row ∈ decode8 op, row.2 ∈ row.1.modes := by decide +kernel
  exact table op (mn, mode) h

/-- R92: in the modes with a 16-bit operand the instruction carries its two bytes, low byte first. -/
theorem exists_buildInstr_of_wordMode {mn : Mnemonic} {mode : Mode} (lo hi : Byte) (hm : mode ∈ mn.modes)
    (hw : mode ∈ [.abs, .absx, .absy, .ind]) :
    ∃ i, buildInstr mn mode lo hi = some i ∧ operandWord i = some (le16 lo hi) := by
  cases mode with
  | abs =>
    cases mn with
    | adc | sbc | cmp | cpx | cpy | and | ora | eor | lda | ldx | ldy | inc | dec | bit | sta | stx | sty
    | asl | lsr | rol | ror | jmp | jsr => exact ⟨_, rfl, rfl⟩
    | _ => exact absurd hm (by decide)
  | absx =>
    cases mn with
    | adc | sbc | cmp | and | ora | eor | lda | ldy | inc | dec | sta | asl | lsr | rol | ror => exact ⟨_, rfl, rfl⟩
    | _ => exact absurd hm (by decide)
  | absy =>
    cases mn with
    | adc | sbc | cmp | and | ora | eor | lda | ldx | sta => exact ⟨_, rfl, rfl⟩
    | _ => exact absurd hm (by decide)
  | ind =>
    cases mn with
    | jmp => exact ⟨_, rfl, rfl⟩
    | _ => exact absurd hm (by decide)
  | _ => exact absurd hw (by decide)

theorem operandWord_instrOf {op lo hi : Byte} {mn : Mnemonic} {mode : Mode} (h : decode8 op = some (mn, mode))
    (hw : mode ∈ [.abs, .absx, .absy, .ind]) : operandWord (instrOf op lo hi) = some (le16 lo hi) := by
  obtain ⟨i, hbuild, hword⟩ := exists_buildInstr_of_wordMode lo hi (mode_mem_of_decode8 h) hw
  rw [instrOf, h]
  simp only [hbuild, Option.getD_some, hword]

theorem zext16_eq_ofNat (b : Byte) : zext16 b = BitVec.ofNat 16 b.toNat := (BitVec.ofNat_toNat 16 b).symm

/-- R132, R133: the next zero-page address, wrapping in page zero. -/
theorem zext16_succ (b : Byte) : zext16 (b + 1#8) = BitVec.ofNat 16 ((b.toNat + 1) % 256) := by
  rw [zext16_eq_ofNat, BitVec.toNat_add]; rfl

/-- R132, R133: the next address, carrying into page one. -/
theorem zext16_add_one (b : Byte) : zext16 b + 1#16 = BitVec.ofNat 16 (b.toNat + 1) := by
  rw [zext16_eq_ofNat, BitVec.ofNat_add]

/-- R132, R133: the pointer at both values of ZP_WRAP. -/
theorem toNat_zpPointer (s : State) (b : Byte) :
    (zpPointer true s b).toNat =
      (s.read (BitVec.ofNat 16 b.toNat)).toNat + 256 * (s.read (BitVec.ofNat 16 ((b.toNat + 1) % 256))).toNat ∧
    (zpPointer false s b).toNat =
      (s.read (BitVec.ofNat 16 b.toNat)).toNat + 256 * (s.read (BitVec.ofNat 16 (b.toNat + 1))).toNat := by
  rw [← zext16_succ, ← zext16_add_one, ← zext16_eq_ofNat]
  exact ⟨toNat_le16 _ _, toNat_le16 _ _⟩

/-- R131: replacing the low byte of an address keeps its page. -/
theorem page_or_zext16 (w : Addr) (b : Byte) : (w &&& 0xFF00#16) ||| zext16 b = le16 b (hiByte w) := by
  have hword : hiByte w ++ loByte w = w := le16_lo_hi w
  have hmask : BitVec.allOnes 8 ++ 0#8 = 0xFF00#16 := rfl
  have hbyte : zext16 b = 0#8 ++ b := BitVec.setWidth_eq_append (by decide)
  calc (w &&& 0xFF00#16) ||| zext16 b
    _ = ((hiByte w ++ loByte w) &&& (BitVec.allOnes 8 ++ 0#8)) ||| (0#8 ++ b) := by rw [hword, hmask, hbyte]
    _ = le16 b (hiByte w) := by
      rw [BitVec.and_append, BitVec.or_append, BitVec.and_allOnes, BitVec.and_zero, BitVec.or_zero, BitVec.zero_or, le16]

/-- R131: the next address within the page. -/
theorem page_or_zext16_succ (w : Addr) :
    (w &&& 0xFF00#16) ||| zext16 (loByte w + 1#8) =
      BitVec.ofNat 16 (256 * (w.toNat / 256) + (w.toNat % 256 + 1) % 256) := by
  have hw : w.toNat < 65536 := w.isLt
  refine BitVec.eq_of_toNat_eq ?_
  rw [page_or_zext16, toNat_le16, BitVec.toNat_add, toNat_loByte, toNat_hiByte, BitVec.toNat_ofNat, BitVec.toNat_ofNat]
  omega

/-- R131: the pointer at both values of JMP_IND_PAGE_BUG. -/
theorem toNat_indirectTarget (s : State) (w : Addr) :
    (indirectTarget true s w).toNat = (s.read w).toNat +
      256 * (s.read (BitVec.ofNat 16 (256 * (w.toNat / 256) + (w.toNat % 256 + 1) % 256))).toNat ∧
    (indirectTarget false s w).toNat = (s.read w).toNat + 256 * (s.read (w + 1#16)).toNat := by
  rw [← page_or_zext16_succ]
  exact ⟨toNat_le16 _ _, toNat_le16 _ _⟩

/-- R340, D9: construction from the vector source reads PC, low byte first, from the storage it gives. -/
theorem construct_vector_pc {regs : Config.ResetRegs} {image : List Byte} {s : State}
    (h : construct regs .vector image = .next s) : s.pc = s.read16 0xFFFC#16 := by
  rw [construct] at h
  split at h
  · cases h
  · cases h; rfl

/-- Settles O5, clause by clause. -/
theorem multiByteQuantitiesAreLittleEndian : Obligations.MultiByteQuantitiesAreLittleEndian :=
  ⟨toNat_le16, fun _ _ _ _ _ => operandWord_instrOf, fun _ _ => toNat_le16 _ _, toNat_zpPointer, toNat_indirectTarget,
    State.toNat_pc_takeBreak, fun _ _ _ h => by rw [construct_vector_pc h]; exact toNat_le16 _ _⟩

/-! Construction (70_reset_and_hazards.md R340, 20_memory.md R68, R69). -/

/-- R62: the decode never goes up. -/
theorem busIndex_le (a : Addr) : busIndex a ≤ a.toNat := by
  by_cases hram : a.toNat ≤ 0x1FFF
  · rw [busIndex_of_ram hram]; exact Nat.mod_le _ _
  · by_cases hppu : a.toNat ≤ 0x3FFF
    · rw [busIndex_of_ppu (by omega) hppu]; omega
    · rw [busIndex_of_direct (by omega)]

/-- R68: storage after a load above the mirrored windows. -/
theorem get_loadBytes (m : Memory) {n : Nat} {bs : List Byte} (hn : 0x4000 ≤ n) (h : n + bs.length ≤ 0x10000)
    (i : Nat) :
    (loadBytes m (BitVec.ofNat 16 n) bs).get i = if n ≤ i then (bs[i - n]?).getD (m.get i) else m.get i := by
  induction bs generalizing m n with
  | nil => simp [loadBytes]
  | cons b bs ih =>
    have hlen : n + 1 + bs.length ≤ 0x10000 := by rw [List.length_cons] at h; omega
    have hidx : busIndex (BitVec.ofNat 16 n) = n := busIndex_ofNat hn (by omega)
    rw [loadBytes, ← BitVec.ofNat_add, ih _ (by omega) hlen, hidx, Memory.get_set]
    obtain hlt | rfl | hlt := lt_trichotomy i n
    · rw [if_neg (show ¬ n + 1 ≤ i by omega), if_neg hlt.ne, if_neg (Nat.not_le.2 hlt)]
    · rw [if_neg (Nat.not_succ_le_self i), if_pos rfl, if_pos (Nat.le_refl i), Nat.sub_self]
      rfl
    · have hsub : i - n = i - (n + 1) + 1 := by omega
      rw [if_pos (show n + 1 ≤ i from hlt), if_neg hlt.ne', if_pos hlt.le, hsub, List.getElem?_cons_succ]

/-- R340: the state construction gives, but for where PC comes from. -/
def State.withImage (regs : Config.ResetRegs) (pc : Addr) (image : List Byte) : State :=
  State.constructed regs pc (loadBytes { cells := [] } Config.loadOrigin image)

section
variable (regs : Config.ResetRegs) (source : Config.PcSource) (pc : Addr) {image : List Byte}

theorem construct_of_fits (h : 0x8000 + image.length ≤ 0x10000) :
    ∃ pc, construct regs source image = .next (State.withImage regs pc image) :=
  ⟨_, if_neg (Nat.not_lt.2 h)⟩

theorem construct_of_too_long (h : 0x10000 < 0x8000 + image.length) :
    construct regs source image = .refused (.loadOutOfRange 0x8000#16 image.length) :=
  if_pos h

theorem construct_fixed_pc {a : Addr} {s : State} (h : construct regs (.fixed a) image = .next s) : s.pc = a := by
  rw [construct] at h
  split at h
  · cases h
  · cases h; rfl

theorem inv_withImage (image : List Byte) : (State.withImage regs pc image).Inv :=
  inv_of_boundary (wf_loadBytes _ _ image rfl) rfl rfl

/-- R68, R69: a storage index holds the image's byte if there is one, or its draw. -/
theorem get_withImage (h : 0x8000 + image.length ≤ 0x10000) (i : Nat) :
    (State.withImage regs pc image).mem.get i =
      if 0x8000 ≤ i then (image[i - 0x8000]?).getD (Config.initMem i) else Config.initMem i :=
  get_loadBytes { cells := [] } (by decide) h i

theorem read_withImage_of_image (h : 0x8000 + image.length ≤ 0x10000) {k : Nat} {b : Byte}
    (hk : image[k]? = some b) : (State.withImage regs pc image).read (BitVec.ofNat 16 (0x8000 + k)) = b := by
  have hlt : k < image.length := (List.getElem?_eq_some_iff.1 hk).1
  rw [State.read, busIndex_ofNat (by omega) (by omega), get_withImage regs pc h, if_pos (Nat.le_add_right _ k),
    Nat.add_sub_cancel_left, hk, Option.getD_some]

theorem read_withImage_of_outside (h : 0x8000 + image.length ≤ 0x10000) {a : Addr}
    (ha : a.toNat < 0x8000 ∨ 0x8000 + image.length ≤ a.toNat) :
    (State.withImage regs pc image).read a = Config.initMem (busIndex a) := by
  rw [State.read, get_withImage regs pc h]
  obtain hbelow | habove := ha
  · have hidx : busIndex a < 0x8000 := (busIndex_le a).trans_lt hbelow
    rw [if_neg (Nat.not_le.2 hidx)]
  · have hidx : busIndex a = a.toNat := busIndex_of_direct (by omega)
    have hnone : image[busIndex a - 0x8000]? = none := List.getElem?_eq_none (by omega)
    rw [hnone, Option.getD_none, ite_self]

end

/-- Settles O58: the state is `State.withImage`, its bytes by `get_loadBytes`. -/
theorem constructionLoadsTheImage : Obligations.ConstructionLoadsTheImage := by
  intro regs source image
  refine ⟨fun hfit => ?_, construct_of_too_long regs source⟩
  obtain ⟨pc, hs⟩ := construct_of_fits regs source hfit
  refine ⟨_, hs, inv_withImage regs pc image, rfl, rfl, rfl, rfl, rfl, rfl, ?_,
    fun _ _ => read_withImage_of_image regs pc hfit, fun _ => read_withImage_of_outside regs pc hfit⟩
  cases source with
  | fixed a => exact construct_fixed_pc regs hs
  | vector => exact construct_vector_pc hs

end Sys2Proof.Machine

namespace Sys2Proof.Machine

/-! Operand bytes (30_encoding.md R92, R93): an operand is the one a mode assembles from two bytes exactly when it has that
mode and its encoding is as many of the two bytes as the mode's length leaves after the opcode byte. -/

theorem wordBytes_le16 (lo hi : Byte) : wordBytes (le16 lo hi) = [lo, hi] := by
  rw [wordBytes, loByte_le16, hiByte_le16]

theorem le16_of_wordBytes {w : Addr} {lo hi : Byte} (h : wordBytes w = [lo, hi]) : le16 lo hi = w := by
  cases h
  exact le16_lo_hi w

section
variable {mode : Mode} {b1 b2 : Byte}

theorem memModeOf_eq_some_iff {m : MemMode} :
    memModeOf mode b1 b2 = some m ↔ m.mode = mode ∧ m.bytes = [b1, b2].take (mode.length - 1) := by
  constructor
  · intro h
    cases mode with
    | zp | zpx | zpy | indx | indy => cases h; exact ⟨rfl, rfl⟩
    | abs | absx | absy => cases h; exact ⟨rfl, wordBytes_le16 b1 b2⟩
    | imp | acc | imm | rel | ind => cases h
  · rintro ⟨rfl, hb⟩
    cases m with
    | zp | zpx | zpy | indx | indy => cases hb; rfl
    | abs w => exact congrArg (some ∘ MemMode.abs) (le16_of_wordBytes hb)
    | absx w => exact congrArg (some ∘ MemMode.absx) (le16_of_wordBytes hb)
    | absy w => exact congrArg (some ∘ MemMode.absy) (le16_of_wordBytes hb)

/-- R123: outside IMM a read-class operand is a memory operand. -/
theorem readOperandOf_of_ne_imm (h : mode ≠ .imm) : readOperandOf mode b1 b2 = (memModeOf mode b1 b2).map .mem := by
  cases mode with
  | imm => exact absurd rfl h
  | _ => rfl

/-- R122: outside ACC the operand of a shift or rotate is a memory operand. -/
theorem rmwOperandOf_of_ne_acc (h : mode ≠ .acc) : rmwOperandOf mode b1 b2 = (memModeOf mode b1 b2).map .mem := by
  cases mode with
  | acc => exact absurd rfl h
  | _ => rfl

/-- R120: the mode of a memory operand is not IMM. -/
theorem memMode_ne_imm (m : MemMode) : m.mode ≠ .imm := by
  cases m <;> exact Mode.noConfusion

theorem readOperandOf_eq_some_iff {m : ReadOperand} :
    readOperandOf mode b1 b2 = some m ↔ m.mode = mode ∧ m.bytes = [b1, b2].take (mode.length - 1) := by
  constructor
  · intro h
    by_cases hmode : mode = .imm
    · subst hmode; cases h; exact ⟨rfl, rfl⟩
    · rw [readOperandOf_of_ne_imm hmode] at h
      obtain ⟨k, hk, rfl⟩ := Option.map_eq_some_iff.1 h
      exact memModeOf_eq_some_iff.1 hk
  · rintro ⟨rfl, hb⟩
    cases m with
    | imm b => cases hb; rfl
    | mem k =>
      have hk : memModeOf k.mode b1 b2 = some k := memModeOf_eq_some_iff.2 ⟨rfl, hb⟩
      exact (readOperandOf_of_ne_imm (memMode_ne_imm k)).trans (congrArg (Option.map ReadOperand.mem) hk)

theorem rmwOperandOf_eq_some_iff {m : RmwOperand} :
    rmwOperandOf mode b1 b2 = some m ↔ m.mode = mode ∧ m.bytes = [b1, b2].take (mode.length - 1) := by
  constructor
  · intro h
    by_cases hmode : mode = .acc
    · subst hmode; cases h; exact ⟨rfl, rfl⟩
    · rw [rmwOperandOf_of_ne_acc hmode] at h
      obtain ⟨k, hk, rfl⟩ := Option.map_eq_some_iff.1 h
      exact memModeOf_eq_some_iff.1 hk
  · rintro ⟨rfl, hb⟩
    cases m with
    | acc => rfl
    | mem k =>
      have hk : memModeOf k.mode b1 b2 = some k := memModeOf_eq_some_iff.2 ⟨rfl, hb⟩
      exact (rmwOperandOf_of_ne_acc (memMode_ne_acc k)).trans (congrArg (Option.map RmwOperand.mem) hk)

theorem jumpOperandOf_eq_some_iff {m : JumpOperand} :
    jumpOperandOf mode b1 b2 = some m ↔ m.mode = mode ∧ m.bytes = [b1, b2].take (mode.length - 1) := by
  constructor
  · intro h
    cases mode with
    | abs | ind => cases h; exact ⟨rfl, wordBytes_le16 b1 b2⟩
    | _ => cases h
  · rintro ⟨rfl, hb⟩
    cases m with
    | abs w => exact congrArg (some ∘ JumpOperand.abs) (le16_of_wordBytes hb)
    | ind w => exact congrArg (some ∘ JumpOperand.ind) (le16_of_wordBytes hb)

/-- R92, R97: what is built has the mnemonic and mode it was built from, and its operand bytes are those it was given. -/
theorem form_of_buildInstr {mn : Mnemonic} {i : Instr} (hm : mode ∈ mn.modes) (h : buildInstr mn mode b1 b2 = some i) :
    i.form = some (mn, mode) ∧ i.operandBytes = [b1, b2].take (mode.length - 1) := by
  cases mn with
  | adc | sbc | cmp | cpx | cpy | and | ora | eor | lda | ldx | ldy =>
    obtain ⟨m, hop, rfl⟩ := Option.map_eq_some_iff.1 h
    obtain ⟨rfl, hb⟩ := readOperandOf_eq_some_iff.1 hop
    exact ⟨rfl, hb⟩
  | inc | dec | bit | sta | stx | sty =>
    obtain ⟨m, hop, rfl⟩ := Option.map_eq_some_iff.1 h
    obtain ⟨rfl, hb⟩ := memModeOf_eq_some_iff.1 hop
    exact ⟨rfl, hb⟩
  | asl | lsr | rol | ror =>
    obtain ⟨m, hop, rfl⟩ := Option.map_eq_some_iff.1 h
    obtain ⟨rfl, hb⟩ := rmwOperandOf_eq_some_iff.1 hop
    exact ⟨rfl, hb⟩
  | jmp =>
    obtain ⟨m, hop, rfl⟩ := Option.map_eq_some_iff.1 h
    obtain ⟨rfl, hb⟩ := jumpOperandOf_eq_some_iff.1 hop
    exact ⟨rfl, hb⟩
  | jsr =>
    obtain rfl := List.mem_singleton.1 hm
    cases h
    exact ⟨rfl, wordBytes_le16 b1 b2⟩
  | _ =>
    obtain rfl := List.mem_singleton.1 hm
    cases h
    exact ⟨rfl, rfl⟩

/-- R92, R97: an instruction is built from its mnemonic, its mode and its operand bytes. -/
theorem buildInstr_of_form {mn : Mnemonic} {i : Instr} (hf : i.form = some (mn, mode))
    (hb : i.operandBytes = [b1, b2].take (mode.length - 1)) : buildInstr mn mode b1 b2 = some i := by
  cases i with
  | adc m | sbc m | cmp m | cpx m | cpy m | and m | ora m | eor m | lda m | ldx m | ldy m =>
    cases hf
    exact Option.map_eq_some_iff.2 ⟨m, readOperandOf_eq_some_iff.2 ⟨rfl, hb⟩, rfl⟩
  | inc m | dec m | bit m | sta m | stx m | sty m =>
    cases hf
    exact Option.map_eq_some_iff.2 ⟨m, memModeOf_eq_some_iff.2 ⟨rfl, hb⟩, rfl⟩
  | asl m | lsr m | rol m | ror m =>
    cases hf
    exact Option.map_eq_some_iff.2 ⟨m, rmwOperandOf_eq_some_iff.2 ⟨rfl, hb⟩, rfl⟩
  | jmp m =>
    cases hf
    exact Option.map_eq_some_iff.2 ⟨m, jumpOperandOf_eq_some_iff.2 ⟨rfl, hb⟩, rfl⟩
  | jsr w => cases hf; exact congrArg (some ∘ Instr.jsr) (le16_of_wordBytes hb)
  | bpl | bmi | bvc | bvs | bcc | bcs | bne | beq => cases hf; cases hb; rfl
  | undocumented => cases hf
  | _ => cases hf; rfl

end

theorem length_memMode_bytes (m : MemMode) : m.bytes.length = m.mode.length - 1 := by
  cases m <;> rfl

/-- R93: an encoding's operand bytes are as many as the mode's length leaves after the opcode byte. -/
theorem length_operandBytes {i : Instr} {mn : Mnemonic} {mode : Mode} (hf : i.form = some (mn, mode)) :
    i.operandBytes.length = mode.length - 1 := by
  cases i with
  | adc m | sbc m | cmp m | cpx m | cpy m | and m | ora m | eor m | lda m | ldx m | ldy m =>
    cases hf
    cases m with
    | imm => rfl
    | mem k => exact length_memMode_bytes k
  | inc m | dec m | bit m | sta m | stx m | sty m => cases hf; exact length_memMode_bytes m
  | asl m | lsr m | rol m | ror m =>
    cases hf
    cases m with
    | acc => rfl
    | mem k => exact length_memMode_bytes k
  | jmp m => cases hf; cases m <;> rfl
  | undocumented => cases hf
  | _ => cases hf; rfl

/-! The opcode table read in both directions (30_encoding.md R94, R96, R97, R104). -/

/-- R96, R97: the mnemonic-indexed table holds every row of the flat one. -/
theorem opcodeOf_of_decode8 {op : Byte} {mn : Mnemonic} {mode : Mode} (h : decode8 op = some (mn, mode)) :
    opcodeOf mn mode = some op := by
  have table : ∀ op : Byte, ∀ row ∈ decode8 op, opcodeOf row.1 row.2 = some op := by decide +kernel
  exact table op (mn, mode) h

/-- R97: every mode a mnemonic has is in the flat table, at the byte the mnemonic-indexed one gives. -/
theorem exists_opcode_of_mode_mem {mn : Mnemonic} {mode : Mode} (hm : mode ∈ mn.modes) :
    ∃ op, opcodeOf mn mode = some op ∧ decode8 op = some (mn, mode) := by
  have table : ∀ mode ∈ mn.modes, (opcodeOf mn mode).bind decode8 = some (mn, mode) := by
    cases mn <;> decide
  exact Option.bind_eq_some_iff.1 (table mode hm)

/-- R104: the bytes without an entry are the ones the rule lists. -/
theorem decode8_eq_none_iff (op : Byte) : decode8 op = none ↔ op.toNat ∈ undocumentedBytes := by
  have table : ∀ op : Byte, decode8 op = none ↔ op.toNat ∈ undocumentedBytes := by decide +kernel
  exact table op

theorem modeLength_le_three (mode : Mode) : mode.length ≤ 3 := by cases mode <;> decide

section
variable {op : Byte} {mn : Mnemonic} {mode : Mode}

theorem opcodeLength_of_decode8 (h : decode8 op = some (mn, mode)) : opcodeLength op = mode.length := by
  rw [opcodeLength, h]

theorem opcodeLength_of_undocumented (h : decode8 op = none) : opcodeLength op = 1 := by
  rw [opcodeLength, h]

theorem instrOf_of_undocumented (h : decode8 op = none) (b1 b2 : Byte) : instrOf op b1 b2 = .undocumented op := by
  rw [instrOf, h]

theorem instrOf_of_buildInstr {b1 b2 : Byte} {i : Instr} (h : decode8 op = some (mn, mode))
    (hb : buildInstr mn mode b1 b2 = some i) : instrOf op b1 b2 = i := by
  rw [instrOf, h]
  simp only [hb, Option.getD_some]

/-- R99: what an admitted set holds. -/
theorem admitsOpcode_iff {set : Config.AdmittedSet} :
    admitsOpcode set op = true ↔ ∃ mn mode, decode8 op = some (mn, mode) ∧ admitsMnemonic set mn = true := by
  cases h : decode8 op with
  | none => simp [admitsOpcode, h]
  | some row =>
    obtain ⟨mn, mode⟩ := row
    simp [admitsOpcode, h]

end

/-- R93: an opcode byte and two bytes after it are never cut short. -/
theorem opcodeLength_le_three (op : Byte) : opcodeLength op ≤ 3 := by
  cases h : decode8 op with
  | none => rw [opcodeLength_of_undocumented h]; decide
  | some row => rw [opcodeLength_of_decode8 h]; exact modeLength_le_three row.2

/-- R94: an entry that names an instruction decodes to a documented one, and no other entry does. -/
theorem documented_instrOf_iff (op b1 b2 : Byte) :
    (instrOf op b1 b2).documented = true ↔ (decode8 op).isSome = true := by
  cases h : decode8 op with
  | none => rw [instrOf_of_undocumented h]; rfl
  | some row =>
    have hadmits : admitsOpcode .documented151 op = true := admitsOpcode_iff.2 ⟨row.1, row.2, h, rfl⟩
    exact iff_of_true (documented_instrOf _ op b1 b2 hadmits) rfl

/-- R94, R97: the instruction of a documented byte is the table's row with the operand bytes it was given. -/
theorem form_instrOf {op : Byte} {mn : Mnemonic} {mode : Mode} (h : decode8 op = some (mn, mode)) (b1 b2 : Byte) :
    (instrOf op b1 b2).form = some (mn, mode) ∧
      (instrOf op b1 b2).operandBytes = [b1, b2].take (mode.length - 1) := by
  cases hb : buildInstr mn mode b1 b2 with
  | some i =>
    rw [instrOf_of_buildInstr h hb]
    exact form_of_buildInstr (mode_mem_of_decode8 h) hb
  | none =>
    have hdoc : (instrOf op b1 b2).documented = true := (documented_instrOf_iff op b1 b2).2 (by rw [h]; rfl)
    rw [instrOf, h] at hdoc
    simp [hb, Instr.documented, Instr.form] at hdoc

/-! Well-formed instructions, their encodings, and the decoder on a list of bytes (30_encoding.md R90, R97). -/

theorem wellFormed_undocumented_iff (op : Byte) : (Instr.undocumented op).wellFormed = true ↔ decode8 op = none :=
  List.contains_iff_mem.trans (decode8_eq_none_iff op).symm

section
variable {i : Instr} {mn : Mnemonic} {mode : Mode}

theorem wellFormed_iff_of_form (hf : i.form = some (mn, mode)) : i.wellFormed = true ↔ mode ∈ mn.modes := by
  cases i with
  | undocumented => cases hf
  | _ => cases hf; exact List.contains_iff_mem

theorem encode_of_form {op : Byte} (hf : i.form = some (mn, mode)) (hop : opcodeOf mn mode = some op) :
    encode i = op :: i.operandBytes := by
  cases i with
  | undocumented => cases hf
  | _ => cases hf; simp only [encode, Instr.form, hop]

end

theorem encode_undocumented {op : Byte} (h : decode8 op = none) : encode (.undocumented op) = [op] :=
  if_pos ((wellFormed_undocumented_iff op).2 h)

theorem decode_cons_of_length_le {op : Byte} {bytes : List Byte} (h : opcodeLength op ≤ bytes.length + 1) :
    decode (op :: bytes) =
      .ok (instrOf op (bytes.getD 0 0#8) (bytes.getD 1 0#8), bytes.drop (opcodeLength op - 1)) :=
  if_neg (Nat.not_lt.2 h)

/-- What the decoder can do when it answers an instruction. -/
theorem decode_eq_ok {bytes rest : List Byte} {i : Instr} (h : decode bytes = .ok (i, rest)) :
    ∃ op tail, bytes = op :: tail ∧ opcodeLength op ≤ tail.length + 1 ∧
      i = instrOf op (tail.getD 0 0#8) (tail.getD 1 0#8) ∧ rest = tail.drop (opcodeLength op - 1) := by
  cases bytes with
  | nil => cases h
  | cons op tail =>
    by_cases hlen : opcodeLength op ≤ tail.length + 1
    · rw [decode_cons_of_length_le hlen] at h
      cases h
      exact ⟨op, tail, rfl, hlen, rfl, rfl⟩
    · rw [decode, if_pos (Nat.lt_of_not_le hlen)] at h
      cases h

/-- R92: the two bytes the decoder looks at, cut to an operand's length, are the list's first ones. -/
theorem take_getD_pair {bytes : List Byte} {k : Nat} (hk : k ≤ 2) (hlen : k ≤ bytes.length) :
    [bytes.getD 0 0#8, bytes.getD 1 0#8].take k = bytes.take k := by
  match k, bytes with
  | 0, _ => rfl
  | 1, _ :: _ => rfl
  | 2, _ :: _ :: _ => rfl

/-- R90, R92, R97: the operand bytes at the head of the list are read back, and the list after them is left. -/
theorem decode_encode_of_form {i : Instr} {mn : Mnemonic} {mode : Mode} (rest : List Byte)
    (hf : i.form = some (mn, mode)) (hm : mode ∈ mn.modes) : decode (encode i ++ rest) = .ok (i, rest) := by
  obtain ⟨op, hencode, hdecode⟩ := exists_opcode_of_mode_mem hm
  have hlen : i.operandBytes.length = mode.length - 1 := length_operandBytes hf
  have hle : mode.length ≤ 3 := modeLength_le_three mode
  have happend : mode.length - 1 ≤ (i.operandBytes ++ rest).length := by rw [List.length_append]; omega
  have hbytes : i.operandBytes =
      [(i.operandBytes ++ rest).getD 0 0#8, (i.operandBytes ++ rest).getD 1 0#8].take (mode.length - 1) := by
    rw [take_getD_pair (by omega) happend, ← hlen, List.take_left]
  have hlength : opcodeLength op = mode.length := opcodeLength_of_decode8 hdecode
  rw [encode_of_form hf hencode, List.cons_append, decode_cons_of_length_le (by omega),
    instrOf_of_buildInstr hdecode (buildInstr_of_form hf hbytes), hlength, ← hlen, List.drop_left]

/-- Log entry 9: an undocumented byte is read back as one byte. -/
theorem decode_encode_undocumented {op : Byte} (rest : List Byte) (h : decode8 op = none) :
    decode (encode (.undocumented op) ++ rest) = .ok (.undocumented op, rest) := by
  have hlen : opcodeLength op = 1 := opcodeLength_of_undocumented h
  rw [encode_undocumented h, List.singleton_append, decode_cons_of_length_le (by omega), instrOf_of_undocumented h,
    hlen]
  rfl

/-- Settles O1: a row of the table by `decode_encode_of_form`, an undocumented byte by `decode_encode_undocumented`. -/
theorem decodeOfEncodeIsTheInstruction : Obligations.DecodeOfEncodeIsTheInstruction := by
  intro i rest hwf
  cases hf : i.form with
  | some row => exact decode_encode_of_form rest hf ((wellFormed_iff_of_form hf).1 hwf)
  | none =>
    cases i with
    | undocumented op => exact decode_encode_undocumented rest ((wellFormed_undocumented_iff op).1 hwf)
    | _ => cases hf

/-- Settles O2: the table's row holds the mode the encoder looks up, and the operand bytes are the first of the tail. -/
theorem encodeOfDecodeIsTheBytes : Obligations.EncodeOfDecodeIsTheBytes := by
  intro bytes rest i h
  obtain ⟨op, tail, rfl, hlen, rfl, rfl⟩ := decode_eq_ok h
  cases hop : decode8 op with
  | none =>
    rw [instrOf_of_undocumented hop, opcodeLength_of_undocumented hop, encode_undocumented hop]
    exact ⟨(wellFormed_undocumented_iff op).2 hop, rfl⟩
  | some row =>
    obtain ⟨mn, mode⟩ := row
    obtain ⟨hf, hbytes⟩ := form_instrOf hop (tail.getD 0 0#8) (tail.getD 1 0#8)
    refine ⟨(wellFormed_iff_of_form hf).2 (mode_mem_of_decode8 hop), ?_⟩
    have hle : mode.length ≤ 3 := modeLength_le_three mode
    rw [opcodeLength_of_decode8 hop] at hlen ⊢
    rw [encode_of_form hf (opcodeOf_of_decode8 hop), hbytes, take_getD_pair (by omega) (by omega), List.cons_append,
      List.take_append_drop]

/-! The other values of ZP_WRAP, JMP_IND_PAGE_BUG and ADMITTED_SET (30_encoding.md R99, R100, 40_addressing_modes.md R125,
R126, R131 to R133). -/

/-- R125, R126: without the wrap a sum of two bytes fits in 16 bits. -/
theorem toNat_zpIndexed_false (b i : Byte) : (zpIndexed false b i).toNat = b.toNat + i.toNat := by
  have hb : b.toNat < 256 := b.isLt
  have hi : i.toNat < 256 := i.isLt
  have hadd : (zpIndexed false b i).toNat = ((zext16 b).toNat + (zext16 i).toNat) % 65536 := BitVec.toNat_add _ _
  rw [hadd, toNat_zext16, toNat_zext16]
  omega

/-- R132: without the wrap the high byte of the pointer at b + X is read from the next address, even in page one. -/
theorem toNat_effAddrWith_false_indx (s : State) (b : Byte) :
    (effAddrWith false (.indx b) s).toNat =
      (s.read (BitVec.ofNat 16 ((b.toNat + s.x.toNat) % 256))).toNat +
        256 * (s.read (BitVec.ofNat 16 ((b.toNat + s.x.toNat) % 256 + 1))).toNat := by
  have hsum : (b + s.x).toNat = (b.toNat + s.x.toNat) % 256 := BitVec.toNat_add b s.x
  rw [← hsum]
  exact (toNat_zpPointer s (b + s.x)).2

/-- R133: without the wrap likewise, and Y is added with a 16-bit carry. -/
theorem toNat_effAddrWith_false_indy (s : State) (b : Byte) :
    (effAddrWith false (.indy b) s).toNat =
      ((s.read (BitVec.ofNat 16 b.toNat)).toNat + 256 * (s.read (BitVec.ofNat 16 (b.toNat + 1))).toNat +
        s.y.toNat) % 65536 := by
  have hadd : (effAddrWith false (.indy b) s).toNat = ((zpPointer false s b).toNat + (zext16 s.y).toNat) % 65536 :=
    BitVec.toNat_add _ _
  rw [hadd, (toNat_zpPointer s b).2, toNat_zext16]

/-- R100: the 41 named mnemonics are the 56 without these 15. -/
theorem sourceNamed_iff (mn : Mnemonic) : mn.sourceNamed = true ↔
    mn ∉ [.lsr, .ror, .inc, .dec, .inx, .iny, .tay, .tya, .tsx, .sec, .sed, .sei, .jmp, .rts, .rti] := by
  cases mn <;> decide

/-- Settles O56, clause by clause; the indirect target without the page bug is `State.read16` as it stands. -/
theorem otherParameterValues : Obligations.OtherParameterValues := by
  refine ⟨fun s b => ⟨toNat_zpIndexed_false b s.x, toNat_zpIndexed_false b s.y, toNat_effAddrWith_false_indx s b,
    toNat_effAddrWith_false_indy s b⟩, fun _ _ => rfl, fun op => ?_⟩
  simp only [admitsOpcode_iff, admitsMnemonic, sourceNamed_iff]

/-! Written-out words, the table's counts, and the refusal of undocumented bytes (30_encoding.md R94, R96, R104, R105,
70_reset_and_hazards.md R330). -/

/-- Settles O3: the decoder computes each word. -/
theorem writtenOutWordsDecode : Obligations.WrittenOutWordsDecode :=
  ⟨rfl, rfl, rfl, rfl, rfl, rfl, rfl, rfl, rfl, rfl, rfl, rfl, rfl, rfl⟩

/-- Settles O4: the counts by evaluating the 256 entries, the decoding by `documented_instrOf_iff`. -/
theorem tableNames151InstructionsAnd105Bytes : Obligations.TableNames151InstructionsAnd105Bytes := by
  refine ⟨by decide +kernel, by decide +kernel, fun op b1 b2 => ?_⟩
  exact ⟨_, _, decode_cons_of_length_le (opcodeLength_le_three op), documented_instrOf_iff op b1 b2⟩

/-- R105: the fetch step of a byte that is not admitted. -/
theorem step_fetch_refused {s : State} (hr : s.ready = true)
    (ha : admitsOpcode Config.admittedSet (s.read s.pc) = false) :
    step s = .refused (.undocumentedOpcode (s.read s.pc) s.pc) := by
  rw [step_of_ready s hr, fetchStep, if_neg (Bool.eq_false_iff.1 ha)]

theorem admitsOpcode_of_undocumented (set : Config.AdmittedSet) {op : Byte} (h : decode8 op = none) :
    admitsOpcode set op = false := by
  rw [admitsOpcode, h]

/-- Settles O38: by exec, by the list of R104, and by the fetch step. -/
theorem undocumentedBytesAreRefused : Obligations.UndocumentedBytesAreRefused :=
  ⟨fun _ _ => rfl, decode8_eq_none_iff, fun _ hr h => step_fetch_refused hr (admitsOpcode_of_undocumented _ h)⟩

/-- Settles O45: the admitted byte by `step_fetch`, any other by `step_fetch_refused`. -/
theorem fetchStepLatchesOpcode : Obligations.FetchStepLatchesOpcode := by
  intro s hr
  refine ⟨fun ha => ?_, step_fetch_refused hr⟩
  have hpc : BitVec.ofNat 16 (s.pc.toNat + 1) = s.pc + 1#16 := by
    rw [BitVec.ofNat_add, BitVec.ofNat_toNat, BitVec.setWidth_eq]
  rw [step_fetch s hr ha, hpc]
  rfl

end Sys2Proof.Machine

namespace Sys2Proof.Machine

/-! Effective addresses in numbers (40_addressing_modes.md R123 to R134). -/

theorem toNat_add_zext16 (w : Addr) (b : Byte) : (w + zext16 b).toNat = (w.toNat + b.toNat) % 65536 := by
  rw [BitVec.toNat_add, toNat_zext16]

/-- R125, R126: with the wrap the sum stays in page zero. -/
theorem toNat_zpIndexed_true (b i : Byte) : (zpIndexed true b i).toNat = (b.toNat + i.toNat) % 256 :=
  (toNat_zext16 (b + i)).trans (BitVec.toNat_add b i)

/-- R132: both bytes of the pointer at b + X are read from page zero. -/
theorem toNat_effAddr_indx (s : State) (b : Byte) :
    (effAddr (.indx b) s).toNat =
      (s.read (BitVec.ofNat 16 ((b.toNat + s.x.toNat) % 256))).toNat +
        256 * (s.read (BitVec.ofNat 16 ((b.toNat + s.x.toNat + 1) % 256))).toNat := by
  have hsum : (b + s.x).toNat = (b.toNat + s.x.toNat) % 256 := BitVec.toNat_add b s.x
  have hpointer : (effAddr (.indx b) s).toNat = _ := (toNat_zpPointer s (b + s.x)).1
  rw [hpointer, hsum, Nat.mod_add_mod]

/-- R133: both bytes of the pointer at b are read from page zero, and Y is added with a 16-bit carry. -/
theorem toNat_effAddr_indy (s : State) (b : Byte) :
    (effAddr (.indy b) s).toNat =
      ((s.read (BitVec.ofNat 16 b.toNat)).toNat + 256 * (s.read (BitVec.ofNat 16 ((b.toNat + 1) % 256))).toNat +
        s.y.toNat) % 65536 := by
  rw [← (toNat_zpPointer s b).1]
  exact toNat_add_zext16 (zpPointer true s b) s.y

/-- Settles O11, mode by mode. -/
theorem effectiveAddressOfEveryMode : Obligations.EffectiveAddressOfEveryMode :=
  fun s b w => ⟨toNat_zext16 b, toNat_zpIndexed_true b s.x, toNat_zpIndexed_true b s.y, rfl, toNat_add_zext16 w s.x,
    toNat_add_zext16 w s.y, toNat_effAddr_indx s b, toNat_effAddr_indy s b, rfl, fun _ => rfl⟩

/-! Jumps and branches (40_addressing_modes.md R127, R128, R131, 46_control_flow.md R240 to R249). -/

/-- R96: the forms of JMP. -/
theorem hasForms_jmp : HasForms .jmp [(0x4C#8, .abs), (0x6C#8, .ind)] := by unfold HasForms; decide +kernel

/-- Settles O29: the indirect target in numbers is `toNat_indirectTarget`. -/
theorem jmpGoesToItsTarget : Obligations.JmpGoesToItsTarget := by
  refine ⟨hasForms_jmp, fun w s => ⟨rfl, ?_⟩⟩
  rw [← (toNat_indirectTarget s w).1, BitVec.ofNat_toNat, BitVec.setWidth_eq]
  rfl

/-- R127: the displacement is signed and the sum is taken mod 65536. -/
theorem branchTarget_eq_ofInt (s : State) (d : Byte) :
    branchTarget s d = BitVec.ofInt 16 (s.pc.toNat + 2 + d.toInt) := by
  have hpc : BitVec.ofInt 16 s.pc.toNat = s.pc := by rw [BitVec.ofInt_natCast, BitVec.ofNat_toNat, BitVec.setWidth_eq]
  rw [BitVec.ofInt_add, BitVec.ofInt_add, hpc]
  rfl

/-- R240: a branch writes PC and nothing else. -/
theorem State.branch_eq (s : State) (taken : Bool) (d : Byte) :
    s.branch taken d = { s with
      pc := BitVec.ofInt 16 (s.pc.toNat + 2 + if taken = true then d.toInt else 0) } := by
  have hpc : (s.branch taken d).pc = BitVec.ofInt 16 (s.pc.toNat + 2 + if taken = true then d.toInt else 0) := by
    cases taken with
    | true => exact branchTarget_eq_ofInt s d
    | false => exact (BitVec.add_zero (s.pc + 2#16)).symm.trans (branchTarget_eq_ofInt s 0#8)
  rw [← hpc]
  rfl

/-- R240: what a branch does, from its flag test. -/
theorem exec_cycles_of_branch {i : Instr} {s : State} {d : Byte} {taken cond : Bool}
    (hexec : exec i s = .next (s.branch taken d)) (hcycles : cycles i s = 2 + taken.toNat) (hcond : taken = cond) :
    exec i s = .next { s with pc := BitVec.ofInt 16 (s.pc.toNat + 2 + if cond = true then d.toInt else 0) } ∧
      cycles i s = if cond = true then 3 else 2 := by
  subst hcond
  refine ⟨by rw [hexec, State.branch_eq], hcycles.trans ?_⟩
  cases taken <;> rfl

/-- R96, R241 to R248: each branch has one opcode byte. -/
theorem hasForms_branches :
    HasForms .bpl [(0x10#8, .rel)] ∧ HasForms .bmi [(0x30#8, .rel)] ∧ HasForms .bvc [(0x50#8, .rel)] ∧
    HasForms .bvs [(0x70#8, .rel)] ∧ HasForms .bcc [(0x90#8, .rel)] ∧ HasForms .bcs [(0xB0#8, .rel)] ∧
    HasForms .bne [(0xD0#8, .rel)] ∧ HasForms .beq [(0xF0#8, .rel)] := by
  unfold HasForms; decide +kernel

/-- Settles O28: `exec_cycles_of_branch` at the flag each branch tests. -/
theorem branchesGoToTargetOrNext : Obligations.BranchesGoToTargetOrNext := by
  refine ⟨hasForms_branches, fun d s => ?_⟩
  simp only [List.forall_mem_cons, List.not_mem_nil, IsEmpty.forall_iff, implies_true, and_true]
  have hclear : ∀ b : Bool, (!b) = (b == false) := by decide
  have hset : ∀ b : Bool, b = (b == true) := by decide
  exact ⟨exec_cycles_of_branch rfl rfl (hclear s.p.n), exec_cycles_of_branch rfl rfl (hset s.p.n),
    exec_cycles_of_branch rfl rfl (hclear s.p.v), exec_cycles_of_branch rfl rfl (hset s.p.v),
    exec_cycles_of_branch rfl rfl (hclear s.p.c), exec_cycles_of_branch rfl rfl (hset s.p.c),
    exec_cycles_of_branch rfl rfl (hclear s.p.z), exec_cycles_of_branch rfl rfl (hset s.p.z)⟩

/-! Where the other instructions leave PC (40_addressing_modes.md R137). -/

@[simp] theorem State.modify_pc (s : State) (m : RmwOperand) (f : Byte → Status → Byte × Status) :
    (s.modify m f).pc = s.pc := by
  cases m <;> rfl

theorem State.branch_pc_of_not_taken (s : State) {taken : Bool} (d : Byte) (h : taken = false) :
    (s.branch taken d).pc = s.pc + 2#16 := by
  rw [h]
  rfl

/-- Settles O39: by the instruction's class; only the RMW template and the branch need a lemma. -/
theorem sequentialInstructionsEndAtNext : Obligations.SequentialInstructionsEndAtNext := by
  intro i mn mode s t hf h hmn htaken
  cases i with
  | jmp | jsr | rts | brk | rti => cases hf; exact absurd (by decide) hmn
  | undocumented => cases hf
  | asl m | lsr m | rol m | ror m => cases hf; cases h; rw [State.advance_pc, State.modify_pc]
  | bpl d | bmi d | bvc d | bvs d | bcc d | bcs d | bne d | beq d =>
    cases hf; cases h; exact s.branch_pc_of_not_taken d htaken
  | _ => cases hf; cases h; rfl

/-! The page-cross penalty (40_addressing_modes.md R138, 70_reset_and_hazards.md R337). -/

/-- R138: the high byte changes exactly when the low-byte sum carries. -/
theorem hiByte_add_zext16_ne (base : Addr) (i : Byte) :
    (hiByte (base + zext16 i) != hiByte base) = decide (256 ≤ base.toNat % 256 + i.toNat) := by
  have hbase : base.toNat < 65536 := base.isLt
  have hi : i.toNat < 256 := i.isLt
  rw [bne, beq_eq_decide, ← decide_not, decide_eq_decide, ← BitVec.toNat_inj, toNat_hiByte, toNat_hiByte,
    toNat_add_zext16]
  omega

theorem pageCrossed_indy (s : State) (b : Byte) :
    pageCrossed (.indy b) s = decide (256 ≤ (s.read (BitVec.ofNat 16 b.toNat)).toNat + s.y.toNat) := by
  have hlo : (zpPointer true s b).toNat % 256 = (s.read (BitVec.ofNat 16 b.toNat)).toNat := by
    have hlt : (s.read (BitVec.ofNat 16 b.toNat)).toNat < 256 := BitVec.isLt _
    rw [(toNat_zpPointer s b).1]
    omega
  rw [← hlo]
  exact hiByte_add_zext16_ne (zpPointer true s b) s.y

section
variable {i : Instr} (s : State)

/-- R337: an entry without +p takes no notice of the penalty. -/
theorem cyclesWith_of_no_penaltyOperand (penalty : Bool) (hp : penaltyOperand i = none) :
    cyclesWith penalty i s = cyclesWith false i s := by
  unfold cyclesWith
  rw [hp]

/-- R337: an entry with +p. -/
theorem cyclesWith_of_penaltyOperand {m : MemMode} {crosses : Bool} (hp : penaltyOperand i = some m)
    (hm : pageCrossed m s = crosses) :
    cyclesWith true i s = cyclesWith false i s + if crosses = true then 1 else 0 := by
  unfold cyclesWith
  cases hf : i.form with
  | none =>
    cases i with
    | undocumented => cases hp
    | _ => cases hf
  | some row => simp [hp, hm, Bool.toNat, Bool.cond_eq_ite]

end

/-- Settles O54: whether a page is crossed mode by mode, then each instruction by whether its entry carries +p. -/
theorem pageCrossCostsOneCycle : Obligations.PageCrossCostsOneCycle := by
  refine ⟨fun m s => ?_, fun m d s => ?_⟩
  · intro carries
    have hm : pageCrossed m s = carries := by
      cases m with
      | absx w => exact hiByte_add_zext16_ne w s.x
      | absy w => exact hiByte_add_zext16_ne w s.y
      | indy b => exact pageCrossed_indy s b
      | _ => rfl
    simp only [List.forall_mem_cons, List.not_mem_nil, IsEmpty.forall_iff, implies_true, and_true]
    have reads {i : Instr} (hp : penaltyOperand i = some m) := cyclesWith_of_penaltyOperand s hp hm
    exact ⟨reads rfl, reads rfl, reads rfl, reads rfl, reads rfl, reads rfl, reads rfl, reads rfl, reads rfl⟩
  · intro i hi
    refine cyclesWith_of_no_penaltyOperand s true ?_
    revert i
    simp only [List.forall_mem_cons, List.not_mem_nil, IsEmpty.forall_iff, implies_true, and_true, penaltyOperand]

/-! An instruction in progress (70_reset_and_hazards.md R330 to R336). -/

/-- R332, R335: the state between the boundary state b and the final cycle of the instruction it fetches. -/
def midInstr (b : State) (k : Nat) (scratch : Addr) (draws : Nat) : State :=
  { b with
    pc := b.pc + 1#16, ready := false, opcode := b.read b.pc, cycle := k, scratch := scratch, draws := draws }

theorem latchFetched_eq_midInstr (b : State) : latchFetched b = midInstr b 0 b.scratch b.draws := rfl

section
variable (b : State) (k : Nat) (scratch : Addr) (draws : Nat)

/-- R333: PC - 1 is PC0, so the state it started at is the boundary state, but for the latches. -/
theorem startOf_midInstr :
    startOf (midInstr b k scratch draws) = setLatches true (b.read b.pc) 0 scratch draws b := by
  have hpc : b.pc + 1#16 - 1#16 = b.pc := BitVec.add_sub_cancel b.pc 1#16
  exact congrArg (fun pc => { setLatches true (b.read b.pc) 0 scratch draws b with pc := pc }) hpc

theorem latchedInstr_midInstr : latchedInstr (midInstr b k scratch draws) = fetchedInstr b := by
  rw [latchedInstr, startOf_midInstr]
  rfl

theorem cycles_midInstr :
    cycles (latchedInstr (midInstr b k scratch draws)) (startOf (midInstr b k scratch draws)) =
      cycles (fetchedInstr b) b := by
  rw [latchedInstr_midInstr, startOf_midInstr, cycles_setLatches]

variable {b k} (ha : admitsOpcode Config.admittedSet (b.read b.pc) = true)
include ha

theorem step_midInstr_of_lt (hk : k + 2 < cycles (fetchedInstr b) b) :
    step (midInstr b k scratch draws) = .next (midInstr b (k + 1) (Config.scratchDraw draws) (draws + 1)) := by
  rw [← cycles_midInstr b k scratch draws] at hk
  exact step_intermediate _ rfl ha hk

/-- R333: the final cycle runs the fetched instruction at the boundary state. -/
theorem step_midInstr_final (hk : k + 2 = cycles (fetchedInstr b) b) {t : State}
    (ht : exec (fetchedInstr b) b = .next t) :
    step (midInstr b k scratch draws) = .next (commit (setLatches true (b.read b.pc) 0 scratch draws t)) := by
  rw [← cycles_midInstr b k scratch draws] at hk
  rw [step_final _ rfl ha hk, finalStep, latchedInstr_midInstr, startOf_midInstr, exec_setLatches, ht]
  rfl

/-- R332: steps short of the final one advance the counter; scratch and draws take free values. -/
theorem run_midInstr (j : Nat) (hk : k + j + 1 < cycles (fetchedInstr b) b) :
    ∃ scratch' draws', RunsTo j (midInstr b k scratch draws) (midInstr b (k + j) scratch' draws') := by
  induction j generalizing k scratch draws with
  | zero => exact ⟨scratch, draws, run_zero _⟩
  | succ j ih =>
    have hstep := step_midInstr_of_lt scratch draws ha (k := k) (by omega)
    obtain ⟨scratch', draws', hrun⟩ := ih (k := k + 1) (Config.scratchDraw draws) (draws + 1) (by omega)
    rw [show k + 1 + j = k + (j + 1) by omega] at hrun
    exact ⟨scratch', draws', (run_succ_of_next j _ _ hstep).trans hrun⟩

end

/-- Settles O48: the fetch step, then `run_midInstr`. -/
theorem nothingChangesBeforeTheFinalCycle : Obligations.NothingChangesBeforeTheFinalCycle := by
  intro s k hr ha hk
  obtain ⟨scratch, draws, hrun⟩ := run_midInstr (b := s) (k := 0) s.scratch s.draws ha k (by omega)
  rw [Nat.zero_add] at hrun
  exact ⟨_, (run_succ_of_next k _ _ (step_fetch s hr ha)).trans hrun, rfl⟩

/-! A placed table word (30_encoding.md R92, R99, 40_addressing_modes.md R134). -/

/-- R62: every mirror keeps the last three bits of the address. -/
theorem busIndex_mod_eight (a : Addr) : busIndex a % 8 = a.toNat % 8 := by
  by_cases hram : a.toNat ≤ 0x1FFF
  · rw [busIndex_of_ram hram]; omega
  · by_cases hppu : a.toNat ≤ 0x3FFF
    · rw [busIndex_of_ppu (by omega) hppu]; omega
    · rw [busIndex_of_direct (by omega)]

theorem busIndex_ne_of_mod_eight {a b : Addr} (h : a.toNat % 8 ≠ b.toNat % 8) : busIndex a ≠ busIndex b := by
  intro heq
  rw [← busIndex_mod_eight, ← busIndex_mod_eight, heq] at h
  exact h rfl

/-- R134: three bytes stored from PC upward are the ones the next fetch reads, since they fall on three different bytes of
storage. -/
theorem read_writeBytes_pc (s : State) (op b1 b2 : Byte) :
    (s.writeBytes s.pc [op, b1, b2]).read s.pc = op ∧
      (s.writeBytes s.pc [op, b1, b2]).read (s.pc + 1#16) = b1 ∧
      (s.writeBytes s.pc [op, b1, b2]).read (s.pc + 2#16) = b2 := by
  have hnext : s.pc + 1#16 + 1#16 = s.pc + 2#16 := BitVec.add_assoc s.pc 1#16 1#16
  have h01 : busIndex s.pc ≠ busIndex (s.pc + 1#16) := busIndex_ne_of_mod_eight (by bv_omega)
  have h02 : busIndex s.pc ≠ busIndex (s.pc + 2#16) := busIndex_ne_of_mod_eight (by bv_omega)
  have h12 : busIndex (s.pc + 1#16) ≠ busIndex (s.pc + 2#16) := busIndex_ne_of_mod_eight (by bv_omega)
  simp only [State.writeBytes, hnext, State.read_write, h01, h02, h12, ↓reduceIte, and_self]

/-- Log entry 6: a placed word is the instruction the next fetch reads. -/
theorem fetchedInstr_placeInstr (s : State) (op b1 b2 : Byte) :
    (placeInstr s [op, b1, b2]).read (placeInstr s [op, b1, b2]).pc = op ∧
      fetchedInstr (placeInstr s [op, b1, b2]) = instrOf op b1 b2 := by
  obtain ⟨hop, h1, h2⟩ := read_writeBytes_pc (if s.ready then s else startOf s) op b1 b2
  refine ⟨hop, ?_⟩
  calc fetchedInstr (placeInstr s [op, b1, b2])
    _ = instrOf _ _ _ := rfl
    _ = instrOf op b1 b2 := congr (congr (congrArg instrOf hop) h1) h2

/-- R92: a table word has three bytes, so it is never cut short. -/
theorem decodeTableWord_eq_some {nbits w : Nat} {i : Instr} (h : decodeTableWord nbits w = some i) :
    ∃ op b1 b2, tableBytes nbits w = [op, b1, b2] ∧ i = instrOf op b1 b2 := by
  have hdecode : decode (tableBytes nbits w) = .ok (_, _) := decode_cons_of_length_le (opcodeLength_le_three _)
  rw [decodeTableWord, hdecode] at h
  exact ⟨_, _, _, rfl, (Option.some.inj h).symm⟩

/-- R99: the default set admits every documented byte. -/
theorem admitsOpcode_of_documented_instrOf {op b1 b2 : Byte} (h : (instrOf op b1 b2).documented = true) :
    admitsOpcode Config.admittedSet op = true := by
  obtain ⟨row, hrow⟩ := Option.isSome_iff_exists.1 ((documented_instrOf_iff op b1 b2).1 h)
  exact admitsOpcode_iff.2 ⟨row.1, row.2, hrow, rfl⟩

/-- Log entry 6: one step of a boundary state carried to the final cycle runs the instruction it fetches. -/
theorem step_atFinalCycle {b t : State} (ha : admitsOpcode Config.admittedSet (b.read b.pc) = true)
    (ht : exec (fetchedInstr b) b = .next t) :
    step (atFinalCycle b) = .next (commit (setLatches true (b.read b.pc) 0 b.scratch b.draws t)) := by
  have hmid : atFinalCycle b = midInstr b (cycles (fetchedInstr b) b - 2) b.scratch b.draws := if_pos ha
  rw [hmid]
  exact step_midInstr_final _ _ ha (Nat.sub_add_cancel (two_le_cycles _ _)) ht

/-- Settles O59: the word's instruction is the one fetched where it was placed, and `step_atFinalCycle` runs it. -/
theorem placedWordRunsInOneStep : Obligations.PlacedWordRunsInOneStep := by
  intro s nbits w i hw hdoc
  obtain ⟨op, b1, b2, hbytes, rfl⟩ := decodeTableWord_eq_some hw
  obtain ⟨t, ht⟩ := exec_completes (instrOf op b1 b2) (placeInstr s [op, b1, b2]) hdoc
  obtain ⟨hop, hfetched⟩ := fetchedInstr_placeInstr s op b1 b2
  have ha := admitsOpcode_of_documented_instrOf hdoc
  rw [← hop] at ha
  rw [State.withFetchWord, hbytes]
  exact ⟨t, _, ht, step_atFinalCycle ha (hfetched.symm ▸ ht), rfl⟩

end Sys2Proof.Machine

namespace Sys2Proof.Machine

/-! The flag primitives in numbers (41_arithmetic.md R150 to R154). -/

/-- R153: the negative primitive is the sign bit. -/
theorem negativeOf_eq (r : Byte) : negativeOf r = decide (128 ≤ r.toNat) :=
  (BitVec.msb_eq_getLsbD_last r).symm.trans (BitVec.msb_eq_decide r)

theorem zeroOf_eq (r : Byte) : zeroOf r = decide (r.toNat = 0) := by
  rw [zeroOf, Bool.beq_eq_decide_eq]
  exact decide_eq_decide.2 BitVec.toNat_inj.symm

/-- R10: SetNZ of a result kept mod 256. -/
theorem Status.setNZ_ofNat (p : Status) (k : Nat) :
    p.setNZ (BitVec.ofNat 8 k) = { p with n := decide (128 ≤ k % 256), z := decide (k % 256 = 0) } := by
  rw [Status.setNZ, negativeOf_eq, zeroOf_eq, BitVec.toNat_ofNat]

/-- R154: a result is kept mod 256. -/
theorem ofNat_mod_256 (k : Nat) : BitVec.ofNat 8 (k % 256) = BitVec.ofNat 8 k :=
  BitVec.eq_of_toNat_eq (by rw [BitVec.toNat_ofNat, BitVec.toNat_ofNat, Nat.mod_mod])

theorem and_0x80_ne_zero (x : Byte) : (x &&& 0x80#8 != 0x00#8) = x.msb := by
  have h : x &&& 0x80#8 = if x.getLsbD 7 = true then 0x80#8 else 0x00#8 := BitVec.and_twoPow x 7
  rw [h, BitVec.msb_eq_getLsbD_last]
  cases x.getLsbD 7 <;> rfl

/-- R152: the overflow formula of ADC in signs. -/
theorem overflowAdd_eq (a m r : Byte) : overflowAdd a m r = decide (a.msb = m.msb ∧ r.msb ≠ a.msb) := by
  rw [overflowAdd, and_0x80_ne_zero, BitVec.msb_and, BitVec.msb_not, BitVec.msb_xor, BitVec.msb_xor]
  cases a.msb <;> cases m.msb <;> cases r.msb <;> rfl

/-- R152, R154: the overflow primitive says that the signed sum does not fit in a byte. -/
theorem overflowAdd_addRaw_iff (a m : Byte) (c : Bool) :
    overflowAdd a m (BitVec.ofNat 8 (addRaw a m c)) = true ↔
      a.toInt + m.toInt + c.toNat < -128 ∨ 127 < a.toInt + m.toInt + c.toNat := by
  have hc := c.toNat_le
  have ha := a.isLt
  have hm := m.isLt
  simp only [overflowAdd_eq, BitVec.msb_eq_decide, BitVec.toInt_eq_toNat_cond, BitVec.toNat_ofNat, addRaw,
    decide_eq_true_eq, decide_eq_decide, ne_eq]
  omega

/-- R156: the signed value of the complement that SBC adds. -/
theorem toInt_not_byte (m : Byte) : (~~~m).toInt = -m.toInt - 1 := by
  have hm := m.isLt
  simp only [BitVec.toInt_eq_toNat_cond, BitVec.toNat_not]
  omega

/-! ADC and SBC (41_arithmetic.md R155, R156). -/

/-- R155: the sum and the flags of ADC. -/
theorem addWithCarry_eq (a m : Byte) (p : Status) {sum : Nat} (hsum : addRaw a m p.c = sum) :
    addWithCarry a m p =
      (BitVec.ofNat 8 sum,
        { p with
          n := decide (128 ≤ sum % 256)
          v := decide (a.msb = m.msb ∧ (BitVec.ofNat 8 sum).msb ≠ a.msb)
          z := decide (sum % 256 = 0)
          c := decide (255 < sum) }) := by
  rw [addWithCarry, hsum, overflowAdd_eq, Status.setNZ_ofNat]
  rfl

/-- R156: SBC is ADC of the complement of M. -/
theorem subtractWithBorrow_eq_addWithCarry (a m : Byte) (p : Status) :
    subtractWithBorrow a m p = addWithCarry a (~~~m) p := by
  have hnot : m ^^^ 0xFF#8 = ~~~m := BitVec.xor_allOnes
  have hraw : subRaw a m p.c = addRaw a (~~~m) p.c := by rw [subRaw, hnot, addRaw]
  have hv (r : Byte) : overflowSub a m r = overflowAdd a (~~~m) r := by
    rw [overflowSub, overflowAdd, BitVec.not_xor_right, BitVec.not_not]
  rw [subtractWithBorrow, addWithCarry, hraw, hv]

/-- R150: the untruncated result of a subtraction is 256 above the difference with borrow. -/
theorem addRaw_not (a m : Byte) (c : Bool) :
    (addRaw a (~~~m) c : Int) = (a.toNat : Int) - m.toNat - (1 - c.toNat) + 256 := by
  have hm := m.isLt
  rw [addRaw, BitVec.toNat_not]
  omega

/-- R156: the difference and the flags of SBC. -/
theorem subtractWithBorrow_eq (a m : Byte) (p : Status) {diff : Int}
    (hdiff : (a.toNat : Int) - m.toNat - (1 - p.c.toNat) = diff) :
    subtractWithBorrow a m p =
      (BitVec.ofInt 8 diff,
        { p with
          n := decide (128 ≤ diff % 256)
          v := decide (a.msb ≠ m.msb ∧ (BitVec.ofInt 8 diff).msb ≠ a.msb)
          z := decide (diff % 256 = 0)
          c := decide (0 ≤ diff) }) := by
  have hraw := addRaw_not a m p.c
  generalize hsum : addRaw a (~~~m) p.c = sum at hraw
  have hr : BitVec.ofNat 8 sum = BitVec.ofInt 8 diff := by
    rw [← BitVec.ofInt_natCast, hraw, hdiff, BitVec.ofInt_add]
    exact BitVec.add_zero _
  have hn : 128 ≤ sum % 256 ↔ 128 ≤ diff % 256 := by omega
  have hz : sum % 256 = 0 ↔ diff % 256 = 0 := by omega
  have hc : 255 < sum ↔ 0 ≤ diff := by omega
  have hsign : a.msb = (~~~m).msb ↔ a.msb ≠ m.msb := by
    rw [BitVec.msb_not]
    cases a.msb <;> cases m.msb <;> decide
  rw [subtractWithBorrow_eq_addWithCarry, addWithCarry_eq a _ p hsum]
  simp only [hr, hn, hz, hc, hsign]

/-- R96: the forms of ADC. -/
theorem hasForms_adc : HasForms .adc [(0x69#8, .imm), (0x65#8, .zp), (0x75#8, .zpx), (0x6D#8, .abs), (0x7D#8, .absx),
    (0x79#8, .absy), (0x61#8, .indx), (0x71#8, .indy)] := by unfold HasForms; decide +kernel

/-- R96: the forms of SBC. -/
theorem hasForms_sbc : HasForms .sbc [(0xE9#8, .imm), (0xE5#8, .zp), (0xF5#8, .zpx), (0xED#8, .abs), (0xFD#8, .absx),
    (0xF9#8, .absy), (0xE1#8, .indx), (0xF1#8, .indy)] := by unfold HasForms; decide +kernel

/-- Settles O12: `addWithCarry_eq` at the operand. -/
theorem adcAddsWithCarry : Obligations.AdcAddsWithCarry := by
  refine ⟨hasForms_adc, fun m s => ?_⟩
  rw [exec, execAdc, addWithCarry_eq s.a (s.operand m) s.p rfl]
  simp only [ofNat_mod_256]
  rfl

/-- Settles O13: `subtractWithBorrow_eq` at the operand. -/
theorem sbcSubtractsWithBorrow : Obligations.SbcSubtractsWithBorrow := by
  refine ⟨hasForms_sbc, fun m s => ?_⟩
  rw [exec, execSbc, subtractWithBorrow_eq s.a (s.operand m) s.p rfl]
  rfl

/-- Settles O14: `overflowAdd_addRaw_iff`, for SBC at the complement of M, whose signed value is `toInt_not_byte`'s. -/
theorem overflowMeansOutOfSignedRange : Obligations.OverflowMeansOutOfSignedRange := by
  refine fun m s t => ⟨fun h => ?_, fun h => ?_⟩
  · cases h
    exact overflowAdd_addRaw_iff s.a (s.operand m) s.p.c
  · rw [exec, execSbc, subtractWithBorrow_eq_addWithCarry] at h
    cases h
    refine (overflowAdd_addRaw_iff s.a (~~~s.operand m) s.p.c).trans ?_
    rw [toInt_not_byte]
    omega

/-! The compares (41_arithmetic.md R157 to R159). -/

/-- R157 to R159: the flags of a compare, from the difference and the unsigned order. -/
theorem compareFlags_eq (r m : Byte) (p : Status) :
    compareFlags r m p =
      { p with
        n := decide (128 ≤ ((r.toNat : Int) - m.toNat) % 256)
        z := decide (r = m)
        c := decide (m.toNat ≤ r.toNat) } := by
  have hr := r.isLt
  have hm := m.isLt
  have hnot : m ^^^ 0xFF#8 = ~~~m := BitVec.xor_allOnes
  have hraw : subRaw r m true = r.toNat + 256 - m.toNat := by
    rw [subRaw, hnot, BitVec.toNat_not, Bool.toNat_true]
    omega
  have hn : 128 ≤ (r.toNat + 256 - m.toNat) % 256 ↔ 128 ≤ ((r.toNat : Int) - m.toNat) % 256 := by omega
  have hz : (r.toNat + 256 - m.toNat) % 256 = 0 ↔ r = m := by
    rw [← BitVec.toNat_inj]
    omega
  have hc : r.toNat + 256 - m.toNat > 0xFF ↔ m.toNat ≤ r.toNat := by omega
  simp only [compareFlags, hraw, Status.setNZ_ofNat, carryOf, hn, hz, hc]

/-- R96: the forms of CMP. -/
theorem hasForms_cmp : HasForms .cmp [(0xC9#8, .imm), (0xC5#8, .zp), (0xD5#8, .zpx), (0xCD#8, .abs), (0xDD#8, .absx),
    (0xD9#8, .absy), (0xC1#8, .indx), (0xD1#8, .indy)] := by unfold HasForms; decide +kernel

/-- R96: the forms of CPX and CPY. -/
theorem hasForms_indexCompares :
    HasForms .cpx [(0xE0#8, .imm), (0xE4#8, .zp), (0xEC#8, .abs)] ∧
    HasForms .cpy [(0xC0#8, .imm), (0xC4#8, .zp), (0xCC#8, .abs)] := by unfold HasForms; decide +kernel

/-- Settles O15: `compareFlags_eq` at the register each compare reads. -/
theorem comparesSetNZCOnly : Obligations.ComparesSetNZCOnly := by
  refine ⟨hasForms_cmp, hasForms_indexCompares.1, hasForms_indexCompares.2, fun m s => ?_⟩
  simp only [List.forall_mem_cons, List.not_mem_nil, IsEmpty.forall_iff, implies_true, and_true, ← compareFlags_eq]
  exact ⟨rfl, rfl, rfl⟩

/-! Increments and decrements (41_arithmetic.md R160 to R165). -/

/-- R160, R162, R163: one up, mod 256. -/
theorem increment_eq (v : Byte) (p : Status) {r : Nat} (hr : (v.toNat + 1) % 256 = r) :
    increment v p = (BitVec.ofNat 8 r, { p with n := decide (128 ≤ r), z := decide (r = 0) }) := by
  have hv : v + 1#8 = BitVec.ofNat 8 r := by bv_omega
  rw [increment, hv, Status.setNZ_ofNat, Nat.mod_eq_of_lt (show r < 256 by omega)]

/-- R161, R164, R165: one down, mod 256. -/
theorem decrement_eq (v : Byte) (p : Status) {r : Nat} (hr : (v.toNat + 255) % 256 = r) :
    decrement v p = (BitVec.ofNat 8 r, { p with n := decide (128 ≤ r), z := decide (r = 0) }) := by
  have hv : v - 1#8 = BitVec.ofNat 8 r := by bv_omega
  rw [decrement, hv, Status.setNZ_ofNat, Nat.mod_eq_of_lt (show r < 256 by omega)]

/-- R134, R136, R137: what a read-modify-write instruction on memory does, from what its handler answers. -/
theorem exec_of_modify_mem {i : Instr} {m : MemMode} {s : State} {f : Byte → Status → Byte × Status}
    {v : Byte} {q : Status} (hexec : exec i s = .next ((s.modify (.mem m) f).advance m.mode.length))
    (hf : f (s.read (effAddr m s)) s.p = (v, q)) :
    ∃ t, exec i s = .next t ∧
      t = { s with mem := t.mem, p := q, pc := s.pc + BitVec.ofNat 16 m.mode.length } ∧
      ∀ a : Addr, t.read a = if busIndex a = busIndex (effAddr m s) then v else s.read a := by
  refine ⟨_, hexec, ?_, fun a => ?_⟩
  · rw [State.modify_mem_eq, hf]
    rfl
  · rw [State.read_advance, State.read_modify_mem, hf]

/-- R96: the forms of INC and DEC. -/
theorem hasForms_inc_dec :
    HasForms .inc [(0xE6#8, .zp), (0xF6#8, .zpx), (0xEE#8, .abs), (0xFE#8, .absx)] ∧
    HasForms .dec [(0xC6#8, .zp), (0xD6#8, .zpx), (0xCE#8, .abs), (0xDE#8, .absx)] := by
  unfold HasForms; decide +kernel

/-- Settles O16: `exec_of_modify_mem` with the handler of each. -/
theorem incAndDecChangeOneByteOfMemory : Obligations.IncAndDecChangeOneByteOfMemory := by
  refine ⟨hasForms_inc_dec.1, hasForms_inc_dec.2, fun m s => ?_⟩
  simp only [List.forall_mem_cons, List.not_mem_nil, IsEmpty.forall_iff, implies_true, and_true]
  exact ⟨exec_of_modify_mem rfl (increment_eq _ s.p rfl), exec_of_modify_mem rfl (decrement_eq _ s.p rfl)⟩

/-- R96: the forms of the index increments and decrements. -/
theorem hasForms_indexSteps :
    HasForms .inx [(0xE8#8, .imp)] ∧ HasForms .iny [(0xC8#8, .imp)] ∧
    HasForms .dex [(0xCA#8, .imp)] ∧ HasForms .dey [(0x88#8, .imp)] := by
  unfold HasForms; decide +kernel

/-- Settles O17: `increment_eq` and `decrement_eq` at each index register. -/
theorem indexIncrementsAndDecrements : Obligations.IndexIncrementsAndDecrements := by
  refine ⟨hasForms_indexSteps, fun s => ⟨?_, ?_, ?_, ?_⟩⟩
  · rw [exec, execInx, increment_eq s.x s.p rfl]; rfl
  · rw [exec, execIny, increment_eq s.y s.p rfl]; rfl
  · rw [exec, execDex, decrement_eq s.x s.p rfl]; rfl
  · rw [exec, execDey, decrement_eq s.y s.p rfl]; rfl

end Sys2Proof.Machine

namespace Sys2Proof.Machine

/-! The logic instructions (42_logic.md R180 to R183). -/

/-- R151: the zero primitive as an equation of bytes. -/
theorem zeroOf_eq_decide (r : Byte) : zeroOf r = decide (r = 0#8) := Bool.beq_eq_decide_eq r 0#8

/-- R10: SetNZ by the sign bit and a comparison with zero. -/
theorem Status.setNZ_eq (p : Status) (r : Byte) : p.setNZ r = { p with n := r.msb, z := decide (r = 0#8) } := by
  rw [Status.setNZ, negativeOf, zeroOf_eq_decide, BitVec.msb_eq_getLsbD_last]

/-- Bit 6 of a byte in numbers. -/
theorem getLsbD_six_eq (m : Byte) : m.getLsbD 6 = decide (64 ≤ m.toNat % 128) := by
  have hbit : m.toNat / 2 ^ 6 % 2 = 1 ↔ 64 ≤ m.toNat % 128 := by omega
  exact Nat.testBit_eq_decide_div_mod_eq.trans (decide_eq_decide.2 hbit)

/-- R183: N and V from the memory byte, Z from the conjunction. -/
theorem bitFlags_eq (a m : Byte) (p : Status) :
    bitFlags a m p =
      { p with n := decide (128 ≤ m.toNat), v := decide (64 ≤ m.toNat % 128), z := decide (a &&& m = 0#8) } := by
  have hn : m.getLsbD 7 = decide (128 ≤ m.toNat) := negativeOf_eq m
  rw [bitFlags, hn, getLsbD_six_eq, zeroOf_eq_decide]

/-- R96: the forms of AND, ORA and EOR. -/
theorem hasForms_logic :
    HasForms .and [(0x29#8, .imm), (0x25#8, .zp), (0x35#8, .zpx), (0x2D#8, .abs), (0x3D#8, .absx), (0x39#8, .absy),
      (0x21#8, .indx), (0x31#8, .indy)] ∧
    HasForms .ora [(0x09#8, .imm), (0x05#8, .zp), (0x15#8, .zpx), (0x0D#8, .abs), (0x1D#8, .absx), (0x19#8, .absy),
      (0x01#8, .indx), (0x11#8, .indy)] ∧
    HasForms .eor [(0x49#8, .imm), (0x45#8, .zp), (0x55#8, .zpx), (0x4D#8, .abs), (0x5D#8, .absx), (0x59#8, .absy),
      (0x41#8, .indx), (0x51#8, .indy)] := by unfold HasForms; decide +kernel

/-- R96: the forms of BIT. -/
theorem hasForms_bit : HasForms .bit [(0x24#8, .zp), (0x2C#8, .abs)] := by unfold HasForms; decide +kernel

/-- Settles O18: each handler writes its result and `Status.setNZ` of it. -/
theorem logicWritesAccumulatorAndNZ : Obligations.LogicWritesAccumulatorAndNZ := by
  obtain ⟨hand, hora, heor⟩ := hasForms_logic
  refine ⟨hand, hora, heor, fun m s => ?_⟩
  simp only [List.forall_mem_cons, List.not_mem_nil, IsEmpty.forall_iff, implies_true, and_true, ← Status.setNZ_eq]
  exact ⟨rfl, rfl, rfl⟩

/-- Settles O19: `bitFlags_eq` at the byte of the effective address. -/
theorem bitTestsMemoryAgainstAccumulator : Obligations.BitTestsMemoryAgainstAccumulator := by
  refine ⟨hasForms_bit, fun m s => ?_⟩
  rw [exec, execBit, bitFlags_eq]
  rfl

end Sys2Proof.Machine

namespace Sys2Proof.Machine

/-! Shifts and rotates (43_shift_rotate.md R190 to R193). -/

/-- R190, R192: ASL is ROL with the carry clear. -/
theorem shiftLeft_eq_rotateLeft (v : Byte) (p : Status) : shiftLeft v p = rotateLeft v { p with c := false } := by
  have hraw : v.toNat <<< 1 ||| false.toNat = v.toNat <<< 1 := Nat.or_zero _
  rw [shiftLeft, rotateLeft, hraw]

/-- R191, R193: LSR is ROR with the carry clear. -/
theorem shiftRight_eq_rotateRight (v : Byte) (p : Status) : shiftRight v p = rotateRight v { p with c := false } := by
  have hr : v >>> 1 ||| BitVec.ofNat 8 false.toNat <<< 7 = v >>> 1 := BitVec.or_zero
  rw [shiftRight, rotateRight, hr]

/-- R192: the old carry enters bit 0, and bit 7 leaves into the carry. -/
theorem rotateLeft_eq (v : Byte) (p : Status) {raw : Nat} (hraw : 2 * v.toNat + p.c.toNat = raw) :
    rotateLeft v p =
      (BitVec.ofNat 8 (raw % 256),
        { p with n := decide (128 ≤ raw % 256), z := decide (raw % 256 = 0), c := decide (128 ≤ v.toNat) }) := by
  have hc := p.c.toNat_le
  have hor : v.toNat <<< 1 ||| p.c.toNat = raw := by
    rw [← Nat.shiftLeft_add_eq_or_of_lt (by omega), Nat.shiftLeft_eq]
    omega
  have hcarry : carryOf raw = decide (128 ≤ v.toNat) := decide_eq_decide.2 (by omega)
  rw [rotateLeft, hor, Status.setNZ_ofNat, ofNat_mod_256, hcarry]

/-- Bit 0 of a byte in numbers. -/
theorem getLsbD_zero_eq (v : Byte) : v.getLsbD 0 = decide (v.toNat % 2 = 1) := Nat.testBit_zero v.toNat

/-- R193: the byte with the old carry above its upper seven bits. -/
theorem ushiftRight_or_carry (v : Byte) (c : Bool) :
    v >>> 1 ||| BitVec.ofNat 8 c.toNat <<< 7 = BitVec.ofNat 8 (v.toNat / 2 + 128 * c.toNat) := by
  have hv := v.isLt
  have hc := c.toNat_le
  apply BitVec.eq_of_toNat_eq
  calc (v >>> 1 ||| BitVec.ofNat 8 c.toNat <<< 7).toNat
      = v.toNat / 2 ||| 2 ^ 7 * c.toNat := by
        rw [BitVec.toNat_or, BitVec.toNat_ushiftRight, BitVec.toNat_shiftLeft, BitVec.toNat_ofNat,
          Nat.shiftRight_eq_div_pow, Nat.shiftLeft_eq]
        congr 1
        omega
    _ = v.toNat / 2 + 128 * c.toNat := by
        rw [Nat.or_comm, ← Nat.two_pow_add_eq_or_of_lt (by omega), Nat.add_comm]
    _ = (BitVec.ofNat 8 (v.toNat / 2 + 128 * c.toNat)).toNat := by
        rw [BitVec.toNat_ofNat, Nat.mod_eq_of_lt (by omega)]

/-- R193: the old carry enters bit 7, and bit 0 leaves into the carry. -/
theorem rotateRight_eq (v : Byte) (p : Status) {r : Nat} (hr : v.toNat / 2 + 128 * p.c.toNat = r) :
    rotateRight v p =
      (BitVec.ofNat 8 r, { p with n := decide (128 ≤ r), z := decide (r = 0), c := decide (v.toNat % 2 = 1) }) := by
  have hlt : r < 256 := by
    have hv := v.isLt
    have hc := p.c.toNat_le
    omega
  rw [rotateRight, ushiftRight_or_carry, hr, Status.setNZ_ofNat, Nat.mod_eq_of_lt hlt, getLsbD_zero_eq]

/-- R122, R134, R136, R137: what a shift or rotate does to A and to memory, from what its handler answers. -/
theorem exec_of_modify {i : RmwOperand → Instr} {s : State} {f : Byte → Status → Byte × Status}
    {r : Byte → Byte} {flags : Byte → Status}
    (hexec : ∀ m, exec (i m) s = .next ((s.modify m f).advance m.mode.length))
    (hf : ∀ v, f v s.p = (r v, flags v)) :
    exec (i .acc) s = .next { s with a := r s.a, p := flags s.a, pc := s.pc + 1#16 } ∧
    ∀ m : MemMode, ∃ t, exec (i (.mem m)) s = .next t ∧
      t = { s with mem := t.mem, p := flags (s.read (effAddr m s)), pc := s.pc + BitVec.ofNat 16 m.mode.length } ∧
      ∀ a : Addr, t.read a = if busIndex a = busIndex (effAddr m s) then r (s.read (effAddr m s)) else s.read a := by
  refine ⟨?_, fun m => exec_of_modify_mem (hexec (.mem m)) (hf _)⟩
  rw [hexec, State.modify_acc_eq, hf]
  rfl

/-- R96: the forms of ASL and ROL. -/
theorem hasForms_leftShifts :
    HasForms .asl [(0x0A#8, .acc), (0x06#8, .zp), (0x16#8, .zpx), (0x0E#8, .abs), (0x1E#8, .absx)] ∧
    HasForms .rol [(0x2A#8, .acc), (0x26#8, .zp), (0x36#8, .zpx), (0x2E#8, .abs), (0x3E#8, .absx)] := by
  unfold HasForms; decide +kernel

/-- R96: the forms of LSR and ROR. -/
theorem hasForms_rightShifts :
    HasForms .lsr [(0x4A#8, .acc), (0x46#8, .zp), (0x56#8, .zpx), (0x4E#8, .abs), (0x5E#8, .absx)] ∧
    HasForms .ror [(0x6A#8, .acc), (0x66#8, .zp), (0x76#8, .zpx), (0x6E#8, .abs), (0x7E#8, .absx)] := by
  unfold HasForms; decide +kernel

/-- Settles O20: `exec_of_modify` with `rotateLeft_eq`, for ASL with the carry clear. -/
theorem aslAndRolMoveBit7IntoCarry : Obligations.AslAndRolMoveBit7IntoCarry := by
  obtain ⟨hasl, hrol⟩ := hasForms_leftShifts
  refine ⟨hasl, hrol, fun s => ?_⟩
  have hshift (v : Byte) := (shiftLeft_eq_rotateLeft v s.p).trans (rotateLeft_eq v { s.p with c := false } rfl)
  have hrotate (v : Byte) := rotateLeft_eq v s.p rfl
  simp only [List.forall_mem_cons, List.not_mem_nil, IsEmpty.forall_iff, implies_true, and_true]
  exact ⟨exec_of_modify (fun _ => rfl) hshift, exec_of_modify (fun _ => rfl) hrotate⟩

/-- Settles O21: `exec_of_modify` with `rotateRight_eq`, for LSR with the carry clear. -/
theorem lsrAndRorMoveBit0IntoCarry : Obligations.LsrAndRorMoveBit0IntoCarry := by
  obtain ⟨hlsr, hror⟩ := hasForms_rightShifts
  refine ⟨hlsr, hror, fun s => ?_⟩
  have hshift (v : Byte) := (shiftRight_eq_rotateRight v s.p).trans (rotateRight_eq v { s.p with c := false } rfl)
  have hrotate (v : Byte) := rotateRight_eq v s.p rfl
  simp only [List.forall_mem_cons, List.not_mem_nil, IsEmpty.forall_iff, implies_true, and_true]
  exact ⟨exec_of_modify (fun _ => rfl) hshift, exec_of_modify (fun _ => rfl) hrotate⟩

end Sys2Proof.Machine

namespace Sys2Proof.Machine

/-! Loads, stores and transfers (44_load_store_transfer.md R200 to R211). -/

/-- R10, R151, R153: SetNZ in numbers. -/
theorem Status.setNZ_eq_toNat (p : Status) (r : Byte) :
    p.setNZ r = { p with n := decide (128 ≤ r.toNat), z := decide (r.toNat = 0) } := by
  rw [Status.setNZ, negativeOf_eq, zeroOf_eq]

/-- R134, the write class: a store is seen through every mirror of the effective address, and nowhere else. -/
theorem State.read_store (s : State) (m : MemMode) (v : Byte) (a : Addr) :
    (s.store m v).read a = if busIndex a = busIndex (effAddr m s) then v else s.read a :=
  State.read_write s (effAddr m s) a v

/-- R134, R137: what a write-class instruction does, from the register it stores. -/
theorem exec_of_store {i : Instr} {m : MemMode} {s : State} {v : Byte}
    (hexec : exec i s = .next ((s.store m v).advance m.mode.length)) :
    ∃ t, exec i s = .next t ∧
      t = { s with mem := t.mem, pc := s.pc + BitVec.ofNat 16 m.mode.length } ∧
      ∀ a : Addr, t.read a = if busIndex a = busIndex (effAddr m s) then v else s.read a :=
  ⟨_, hexec, rfl, State.read_store s m v⟩

/-- R96: the forms of LDA, LDX and LDY. -/
theorem hasForms_loads :
    HasForms .lda [(0xA9#8, .imm), (0xA5#8, .zp), (0xB5#8, .zpx), (0xAD#8, .abs), (0xBD#8, .absx), (0xB9#8, .absy),
      (0xA1#8, .indx), (0xB1#8, .indy)] ∧
    HasForms .ldx [(0xA2#8, .imm), (0xA6#8, .zp), (0xB6#8, .zpy), (0xAE#8, .abs), (0xBE#8, .absy)] ∧
    HasForms .ldy [(0xA0#8, .imm), (0xA4#8, .zp), (0xB4#8, .zpx), (0xAC#8, .abs), (0xBC#8, .absx)] := by
  unfold HasForms; decide +kernel

/-- R96: the forms of STA, STX and STY. -/
theorem hasForms_stores :
    HasForms .sta [(0x85#8, .zp), (0x95#8, .zpx), (0x8D#8, .abs), (0x9D#8, .absx), (0x99#8, .absy), (0x81#8, .indx),
      (0x91#8, .indy)] ∧
    HasForms .stx [(0x86#8, .zp), (0x96#8, .zpy), (0x8E#8, .abs)] ∧
    HasForms .sty [(0x84#8, .zp), (0x94#8, .zpx), (0x8C#8, .abs)] := by
  unfold HasForms; decide +kernel

/-- R96: the forms of the transfers. -/
theorem hasForms_transfers :
    HasForms .tax [(0xAA#8, .imp)] ∧ HasForms .tay [(0xA8#8, .imp)] ∧ HasForms .txa [(0x8A#8, .imp)] ∧
    HasForms .tya [(0x98#8, .imp)] ∧ HasForms .tsx [(0xBA#8, .imp)] ∧ HasForms .txs [(0x9A#8, .imp)] := by
  unfold HasForms; decide +kernel

/-- Settles O22: each load writes its operand and `Status.setNZ` of it; an immediate crosses no page. -/
theorem loadsWriteOneRegisterAndNZ : Obligations.LoadsWriteOneRegisterAndNZ := by
  obtain ⟨hlda, hldx, hldy⟩ := hasForms_loads
  refine ⟨hlda, hldx, hldy, fun m s => ?_⟩
  simp only [← Status.setNZ_eq_toNat]
  exact ⟨rfl, rfl, rfl, fun _ => rfl⟩

/-- Settles O23: `exec_of_store` at the register each store writes. -/
theorem storesWriteOneByteAndNoFlag : Obligations.StoresWriteOneByteAndNoFlag := by
  obtain ⟨hsta, hstx, hsty⟩ := hasForms_stores
  refine ⟨hsta, hstx, hsty, fun m s => ?_⟩
  simp only [List.forall_mem_cons, List.not_mem_nil, IsEmpty.forall_iff, implies_true, and_true]
  exact ⟨exec_of_store rfl, exec_of_store rfl, exec_of_store rfl⟩

/-- Settles O24: each transfer but TXS writes `Status.setNZ` of the value it copies. -/
theorem transfersCopyOneRegister : Obligations.TransfersCopyOneRegister := by
  refine ⟨hasForms_transfers, fun s => ?_⟩
  simp only [← Status.setNZ_eq_toNat]
  exact ⟨rfl, rfl, rfl, rfl, rfl, rfl⟩

end Sys2Proof.Machine

namespace Sys2Proof.Machine

/-! The stack instructions (45_stack.md R230 to R233): what a push instruction leaves, and what the two pulls restore. -/

/-- R35, R137: what a push instruction does, from the byte it pushes. -/
theorem exec_of_push {i : Instr} {s : State} {v : Byte} (hexec : exec i s = .next ((s.push v).advance 1)) :
    ∃ t, exec i s = .next t ∧ t = { s with mem := t.mem, sp := s.sp - 1#8, pc := s.pc + 1#16 } ∧
      ∀ a : Addr, t.read a = if busIndex a = busIndex (stackAddr s.sp) then v else s.read a := by
  refine ⟨_, hexec, rfl, fun a => ?_⟩
  rw [State.read_advance, State.read_push, busIndex_stackAddr]

/-- R96: the forms of PHA and PLA. -/
theorem hasForms_pha_pla : HasForms .pha [(0x48#8, .imp)] ∧ HasForms .pla [(0x68#8, .imp)] := by
  unfold HasForms; decide +kernel

/-- R96: the forms of PHP and PLP. -/
theorem hasForms_php_plp : HasForms .php [(0x08#8, .imp)] ∧ HasForms .plp [(0x28#8, .imp)] := by
  unfold HasForms; decide +kernel

/-- Settles O25: `exec_of_push` at A; PLA writes the byte pulled and `Status.setNZ` of it. -/
theorem phaStoresAndPlaLoadsTheStackByte : Obligations.PhaStoresAndPlaLoadsTheStackByte := by
  obtain ⟨hpha, hpla⟩ := hasForms_pha_pla
  refine ⟨hpha, hpla, fun s => ⟨exec_of_push rfl, ?_⟩⟩
  rw [← Status.setNZ_eq_toNat]
  rfl

/-- Settles O26: `exec_of_push` at the status image with B set (`Status.image_true`); PLP writes `Status.ofByte` of the
byte pulled. -/
theorem phpPushesImageAndPlpRestoresFlags : Obligations.PhpPushesImageAndPlpRestoresFlags := by
  obtain ⟨hphp, hplp⟩ := hasForms_php_plp
  refine ⟨hphp, hplp, fun s => ⟨?_, rfl⟩⟩
  rw [← Status.image_true]
  exact exec_of_push rfl

end Sys2Proof.Machine

namespace Sys2Proof.Machine

/-! Calls, returns and NOP (46_control_flow.md R250, R251, R253, R254). -/

/-- R96: each of the four has one opcode byte. -/
theorem hasForms_jsr_rts_rti_nop :
    HasForms .jsr [(0x20#8, .abs)] ∧ HasForms .rts [(0x60#8, .imp)] ∧ HasForms .rti [(0x40#8, .imp)] ∧
    HasForms .nop [(0xEA#8, .imp)] := by
  unfold HasForms; decide +kernel

/-- R37: the two bytes of a 16-bit push, the high byte first; they never overlap, from any stack pointer. -/
theorem State.read_push16_high_first (s : State) (w a : Addr) :
    (s.push16 w).read a =
      if busIndex a = busIndex (stackAddr s.sp) then hiByte w
      else if busIndex a = busIndex (stackAddr (s.sp - 1#8)) then loByte w
      else s.read a := by
  have hne : s.sp.toNat ≠ (s.sp - 1#8).toNat := by bv_omega
  rw [State.read_push16, busIndex_stackAddr, busIndex_stackAddr]
  by_cases hhigh : busIndex a = 0x100 + s.sp.toNat
  · simp only [hhigh, Nat.add_right_inj, hne, ↓reduceIte]
  · simp only [hhigh, ↓reduceIte]

/-- Settles O30: the two stack bytes are `State.read_push16_high_first` at PC0 + 2. -/
theorem jsrPushesLastByteAddress : Obligations.JsrPushesLastByteAddress := by
  obtain ⟨hjsr, -, -, -⟩ := hasForms_jsr_rts_rti_nop
  refine ⟨hjsr, fun w s => ⟨rfl, { s.push16 (s.pc + 2#16) with pc := w }, rfl, ?_, fun a => ?_⟩⟩
  · have hsp : s.sp - 2#8 = s.sp - 1#8 - 1#8 := by bv_omega
    rw [hsp]
    rfl
  · have hret : (s.pc + 2#16).toNat = (s.pc.toNat + 2) % 65536 := BitVec.toNat_add s.pc 2#16
    rw [← hret, ← hiByte_eq_ofNat, ← loByte_eq_ofNat]
    exact s.read_push16_high_first (s.pc + 2#16) a

/-- R37, R70: a 16-bit value from its two bytes, in the numbers the return addresses are stated in. -/
theorem le16_eq_ofNat (lo hi : Byte) : le16 lo hi = BitVec.ofNat 16 (256 * hi.toNat + lo.toNat) := by
  rw [Nat.add_comm, ← toNat_le16, BitVec.ofNat_toNat, BitVec.setWidth_eq]

/-- Settles O31: PC is the `le16` of the two bytes pulled, and one more. -/
theorem rtsReturnsPastPulledAddress : Obligations.RtsReturnsPastPulledAddress := by
  obtain ⟨-, hrts, -, -⟩ := hasForms_jsr_rts_rti_nop
  refine ⟨hrts, fun s => ⟨?_, rfl⟩⟩
  have hsp : s.sp + 2#8 = s.sp + 1#8 + 1#8 := by bv_omega
  rw [BitVec.ofNat_add, ← le16_eq_ofNat, hsp]
  rfl

/-- Settles O33: P is the first byte pulled, PC the `le16` of the next two (`State.returnFromBreak_eq`). -/
theorem rtiRestoresFlagsAndAddress : Obligations.RtiRestoresFlagsAndAddress := by
  obtain ⟨-, -, hrti, -⟩ := hasForms_jsr_rts_rti_nop
  refine ⟨hrti, fun s => ⟨?_, rfl⟩⟩
  have hsp2 : s.sp + 2#8 = s.sp + 1#8 + 1#8 := by bv_omega
  have hsp3 : s.sp + 3#8 = s.sp + 1#8 + 1#8 + 1#8 := by bv_omega
  have hexec : exec .rti s = .next s.returnFromBreak := rfl
  rw [hexec, State.returnFromBreak_eq, ← le16_eq_ofNat, hsp3, hsp2]
  rfl

/-- Settles O36: NOP is `State.advance` by one byte, its PC in numbers. -/
theorem nopOnlyAdvances : Obligations.NopOnlyAdvances := by
  obtain ⟨-, -, -, hnop⟩ := hasForms_jsr_rts_rti_nop
  refine ⟨hnop, fun s => ⟨?_, rfl⟩⟩
  rw [BitVec.ofNat_add, BitVec.ofNat_toNat, BitVec.setWidth_eq]
  rfl

/-! The cycle table (46_control_flow.md R240, 70_reset_and_hazards.md R337). -/

/-- R240, R337: with the page-cross penalty off, only a taken branch adds to the base count. -/
theorem cyclesWith_false_of_form {i : Instr} {mn : Mnemonic} {mode : Mode} (s : State)
    (hf : i.form = some (mn, mode)) :
    cyclesWith false i s = baseCycles mn mode + if takenBranch i s.p = true then 1 else 0 := by
  have hbranch : (takenBranch i s.p).toNat = if takenBranch i s.p = true then 1 else 0 := by
    rw [Bool.toNat, Bool.cond_eq_ite]
  unfold cyclesWith
  rw [hf, ← hbranch]
  cases penaltyOperand i with
  | none => rfl
  | some m => rfl

/-- Settles O55: the table row by row, then `cyclesWith_false_of_form`. -/
theorem cycleTableEntries : Obligations.CycleTableEntries :=
  ⟨by decide, by decide, by decide, by decide, by decide, by decide, by decide, by decide, by decide, by decide,
    by decide, by decide, by decide, by decide, by decide, fun _ _ _ s hf => cyclesWith_false_of_form s hf⟩

end Sys2Proof.Machine

namespace Sys2Proof.Machine

/-! The flag instructions (47_flag_ops.md R270 to R276). -/

/-- R96: each flag instruction has one opcode byte. -/
theorem hasForms_flagOps :
    HasForms .clc [(0x18#8, .imp)] ∧ HasForms .cld [(0xD8#8, .imp)] ∧ HasForms .cli [(0x58#8, .imp)] ∧
    HasForms .clv [(0xB8#8, .imp)] ∧ HasForms .sec [(0x38#8, .imp)] ∧ HasForms .sed [(0xF8#8, .imp)] ∧
    HasForms .sei [(0x78#8, .imp)] := by
  unfold HasForms; decide +kernel

/-- Settles O37: each handler replaces P and is `State.advance` by one byte; its table entry is 2 cycles. -/
theorem flagInstructionsWriteOneFlag : Obligations.FlagInstructionsWriteOneFlag := by
  refine ⟨hasForms_flagOps, fun s => ?_⟩
  simp only [List.forall_mem_cons, List.not_mem_nil, IsEmpty.forall_iff, implies_true, and_true]
  exact ⟨⟨rfl, rfl⟩, ⟨rfl, rfl⟩, ⟨rfl, rfl⟩, ⟨rfl, rfl⟩, ⟨rfl, rfl⟩, ⟨rfl, rfl⟩, ⟨rfl, rfl⟩⟩

end Sys2Proof.Machine

namespace Sys2Proof.Machine

/-! Where a run can stop (60_exceptions.md R301, R302, R304, 70_reset_and_hazards.md R331, R332, R340). -/

/-- Settles O50: storage is empty, and reset is a boundary at cycle 0. -/
theorem resetMeetsTheInvariant : Obligations.ResetMeetsTheInvariant :=
  inv_of_boundary wf_reset rfl rfl

/-- R332: between boundaries the latch is admitted and the counter not past the final cycle, so a step completes. -/
theorem step_completes_of_not_ready {s : State} (hs : s.Inv) (hr : s.ready = false) : ∃ t, step s = .next t := by
  obtain ⟨-, -, hbetween⟩ := hs
  obtain ⟨-, ha, hcycle⟩ := hbetween hr
  rcases lt_or_eq_of_le hcycle with hlt | hfinal
  · exact ⟨_, step_intermediate s hr ha hlt⟩
  · obtain ⟨u, -, hu⟩ := finalStep_completes s ha
    exact ⟨commit u, (step_final s hr ha hfinal).trans hu⟩

/-- Settles O51: a boundary by whether its byte is admitted, any other state by `step_completes_of_not_ready`. -/
theorem onlyAFetchCanStop : Obligations.OnlyAFetchCanStop := by
  intro s hs
  cases hr : s.ready with
  | false => exact .inl (step_completes_of_not_ready hs hr)
  | true =>
    cases ha : admitsOpcode Config.admittedSet (s.read s.pc) with
    | true => exact .inl ⟨_, step_fetch s hr ha⟩
    | false => exact .inr ⟨rfl, rfl, step_fetch_refused hr ha⟩

/-- Settles O52, by induction on the number of steps: the first one keeps the invariant or is a refusal. -/
theorem noRunFaults : Obligations.NoRunFaults := by
  intro s hs k r
  induction k generalizing s with
  | zero => rw [run_zero]; nofun
  | succ k ih =>
    obtain ⟨t, ht⟩ | ⟨-, -, href⟩ := onlyAFetchCanStop s hs
    · rw [run_succ_of_next k s t ht]
      exact ih t (stepKeepsTheInvariant s t hs ht)
    · rw [run_succ_of_refused k s _ href]
      nofun

/-! Steps, runs and exec (40_addressing_modes.md R134, 70_reset_and_hazards.md R330 to R337). -/

/-- The latches set to the values they have. -/
theorem setLatches_self (s : State) : setLatches s.ready s.opcode s.cycle s.scratch s.draws s = s := rfl

/-- Settles O44: `exec_setLatches`; at the latches' own values it says that they are unchanged. -/
theorem instructionsDoNotTouchLatches : Obligations.InstructionsDoNotTouchLatches := by
  intro i s t h
  have hset (r : Bool) (o : Byte) (k : Nat) (sc : Addr) (n : Nat) :
      exec i (setLatches r o k sc n s) = .next (setLatches r o k sc n t) := by
    rw [exec_setLatches, h]
    rfl
  have hself := hset s.ready s.opcode s.cycle s.scratch s.draws
  rw [setLatches_self, h] at hself
  have ht : t = setLatches s.ready s.opcode s.cycle s.scratch s.draws t := Host.Outcome.next.inj hself
  refine ⟨?_, hset⟩
  rw [ht]
  exact ⟨rfl, rfl, rfl, rfl, rfl⟩

/-- R107: what the decoder answers on the bytes of a fetch. -/
theorem eq_instrOf_of_decode {op b1 b2 : Byte} {i : Instr} {rest : List Byte}
    (h : decode [op, b1, b2] = .ok (i, rest)) : i = instrOf op b1 b2 := by
  obtain ⟨_, _, hbytes, -, hi, -⟩ := decode_eq_ok h
  cases hbytes
  exact hi

/-- R134, R333: between boundaries PC points at the byte after the latched one. -/
theorem latchedInstr_eq_instrOf (s : State) :
    latchedInstr s = instrOf s.opcode (s.read s.pc) (s.read (s.pc + 1#16)) := by
  have h1 : s.pc - 1#16 + 1#16 = s.pc := BitVec.sub_add_cancel s.pc 1#16
  have h2 : s.pc - 1#16 + 2#16 = s.pc + 1#16 := by bv_omega
  rw [latchedInstr, instrWithOpcode, startOf_pc, h1, h2]
  rfl

/-- Settles O46: `step_intermediate` and `finalStep_completes` at the latched instruction. -/
theorem stepRunsTheDecodedInstruction : Obligations.StepRunsTheDecodedInstruction := by
  intro s i rest hr ha hdecode
  have hi : i = latchedInstr s := (eq_instrOf_of_decode hdecode).trans (latchedInstr_eq_instrOf s).symm
  subst hi
  refine ⟨fun hlt => ⟨_, step_intermediate s hr ha hlt, rfl⟩, fun hfinal => ?_⟩
  obtain ⟨t, ht, hcommit⟩ := finalStep_completes s ha
  exact ⟨t, commit t, ht, (step_final s hr ha hfinal).trans hcommit, rfl⟩

/-- A run and one more step. -/
theorem RunsTo.snoc {k : Nat} {s u v : State} (hrun : RunsTo k s u) (hstep : step u = .next v) :
    RunsTo (k + 1) s v := by
  induction k generalizing s with
  | zero =>
    obtain rfl : s = u := Host.Outcome.next.inj hrun
    exact run_succ_of_next 0 s v hstep
  | succ k ih =>
    rw [RunsTo] at hrun
    cases hs : step s with
    | next t =>
      rw [run_succ_of_next k s t hs] at hrun
      exact (run_succ_of_next (k + 1) s t hs).trans (ih hrun)
    | fault r => rw [run_succ_of_fault k s r hs] at hrun; cases hrun
    | refused r => rw [run_succ_of_refused k s r hs] at hrun; cases hrun

/-- R330 to R333: the fetch step, the intermediate cycles and the final one. -/
theorem runsTo_commit {s t : State} (hr : s.ready = true)
    (ha : admitsOpcode Config.admittedSet (s.read s.pc) = true) (ht : exec (fetchedInstr s) s = .next t) :
    ∃ scratch draws, RunsTo (cycles (fetchedInstr s) s) s
      (commit (setLatches true (s.read s.pc) 0 scratch draws t)) := by
  obtain ⟨j, hj⟩ := Nat.exists_eq_add_of_le' (two_le_cycles (fetchedInstr s) s)
  obtain ⟨scratch, draws, hrun⟩ := run_midInstr (b := s) (k := 0) s.scratch s.draws ha j (by omega)
  have hfinal := step_midInstr_final scratch draws ha (k := 0 + j) (by omega) ht
  rw [hj]
  exact ⟨scratch, draws, (run_succ_of_next (j + 1) s _ (step_fetch s hr ha)).trans (hrun.snoc hfinal)⟩

/-- Settles O47: the fetched instruction is the one the bytes decode to, and `runsTo_commit` runs it. -/
theorem instructionTakesItsCyclesAndIsExec : Obligations.InstructionTakesItsCyclesAndIsExec := by
  intro s i rest hr ha hdecode
  have hi : i = fetchedInstr s := eq_instrOf_of_decode hdecode
  subst hi
  obtain ⟨t, ht⟩ := exec_completes (fetchedInstr s) s (documented_instrOf _ _ _ _ ha)
  obtain ⟨scratch, draws, hrun⟩ := runsTo_commit hr ha ht
  exact ⟨t, _, ht, hrun, rfl⟩

end Sys2Proof.Machine
